-- ==== Sys2Proof/Word.lean ====
section
/-! DEFINITION. The word types of the ZB-T9 and the shape of its sparse stores. Byte order is little-endian
everywhere and bit 0 is the least significant bit (R7). -/

namespace Sys2Proof

/-- One byte. -/
abbrev Byte := BitVec 8
/-- One 16-bit instruction word (R131). -/
abbrev Half := BitVec 16
/-- A 64-bit register, address or packet word (R30). -/
abbrev Dword := BitVec 64
/-- A 512-bit vector register (R30). -/
abbrev Vec := BitVec 512

/-- A sparse store: pairs of a key and a value. Its one canonical form (`SMap.wf`) has strictly rising keys and no
entry equal to what an unlisted key reads as. -/
abbrev SMap (α : Type) := List (Nat × α)

end Sys2Proof
end

