-- ==== Sys2Proof/Syntax.lean ====
section
/-! DEFINITION. The operations of the ZB-T9 as data: the operand forms of chapter 07 and one constructor for each row of
spec/opcode_table.json, first the instructions in the table's order, then the device's own steps. -/

namespace Sys2Proof

/-- The four link directions ln, le, ls, lw (R14). -/
inductive Dir where
  | n | e | s | w
  deriving DecidableEq, Repr

/-- An operand of either operand space (R135). -/
inductive Opnd where
  /-- A general register of the page-0 space. -/
  | g (r : Fin 24)
  /-- A core queue: reading pops, writing pushes. -/
  | q (i : Fin 4)
  /-- A link: reading pops, writing pushes. -/
  | link (d : Dir)
  /-- A vector register. -/
  | v (i : Fin 8)
  /-- A mask register as an ordinary operand. -/
  | k (i : Fin 8)
  /-- A g register of the page-1 vector space, codes 16 to 31. -/
  | b (r : Fin 16)
  deriving DecidableEq, Repr

/-- A source that may come from a PFX.I chain taken above (R139, R152): the extended immediate, or an operand. -/
inductive Src where
  | op (o : Opnd)
  | imm (x : Dword)
  deriving DecidableEq, Repr

/-- PFX.R width (R140). -/
inductive Width where
  | w64 | w32 | w16 | w8
  deriving DecidableEq, Repr

/-- PFX.M access class (R142). -/
inductive Cls where
  | ord | rlx | rlxa | rlxc
  deriving DecidableEq, Repr

/-- Memory scope codes 0 to 5 (R142). -/
inductive Scope where
  | core | clu | die | pkg | dom | sys
  deriving DecidableEq, Repr

/-- Static rounding modes (R123). -/
inductive RMode where
  | rne | rtz | rup | rdn | rmm
  deriving DecidableEq, Repr

/-- Element types, codes 0 to 15 in order (R137). -/
inductive Ty where
  | f64 | f32 | f16 | bf16 | e4m3 | e5m2 | i64 | i32 | i16 | i8 | n32 | n16 | n8 | q4x | tri | n64
  deriving DecidableEq, Repr

/-- AMO sub-operations (R210). -/
inductive AmoOp where
  | add | swap | and | or | min | max | minn | maxn
  deriving DecidableEq, Repr

/-- FCMP conditions (R185). -/
inductive FCond where
  | eq | lt | le | un | ne | ltq | leq | or
  deriving DecidableEq, Repr

/-- VCMP conditions (R191). -/
inductive ICond where
  | eq | ne | lt | le | gt | ge
  deriving DecidableEq, Repr

/-- KOP operations (R195). -/
inductive KOp where
  | and | or | xor | andn | not | pop | first | mov
  deriving DecidableEq, Repr

/-- VRED and VSCAN operations (R194). -/
inductive RedOp where
  | add | min | max
  deriving DecidableEq, Repr

/-- A memory operand with what PFX.M and the chain give it (R17, R142). -/
structure MemOp where
  base  : Fin 24
  off   : Dword
  cls   : Cls
  scope : Scope
  sg    : Fin 8
  deriving DecidableEq, Repr

/-- What PFX.P gives a page-1 instruction (R141). -/
structure P1 where
  ty   : Ty
  sc   : Bool
  mask : Fin 8
  deriving DecidableEq, Repr

/-- The engines served by ENGINE_TAKE_OPERATION (R48): the generation table unit or the unmasking engine of a cluster,
or the link block queue of a port. -/
inductive EngUnit where
  | gen | unm | gw
  deriving DecidableEq, Repr

/-- An operation of the semantic sublayer (R374): a send, whose data go to the buffer the service has posted for it, a write, a read, an
atomic operation of n bytes. -/
inductive UeOp where
  | send (buffer : Nat) (data : List Byte)
  | write (va : Nat) (data : List Byte)
  | read (va : Nat) (n : Nat)
  | amo (op : AmoOp) (va n : Nat) (value : Dword)
  | cas (va n : Nat) (expected value : Dword)
  deriving DecidableEq, Repr

/-- What an Ultra Ethernet port receives (R374): a packet of a supported part, or one of a part that is not supported. -/
inductive UePacket where
  /-- a packet of reliable delivery, ordered (ROD) or unordered (RUD): its endpoint, its security association, its operation -/
  | reliable (ordered : Bool) (endpoint association : Nat) (op : UeOp)
  | unsupported
  deriving DecidableEq, Repr

/-- An inbound DMA request of the NVMe controller (R376). -/
inductive DmaReq where
  | write (va : Nat) (data : List Byte)
  | read (va : Nat) (n : Nat)
  deriving DecidableEq, Repr

/-- One constructor for each row of the opcode table. -/
inductive Instr where
  -- page 0 (R144)
  | add (d : Opnd) (s : Src)
  | sub (d : Opnd) (s : Src)
  | mul (d : Opnd) (s : Src)
  | mulh (d : Opnd) (s : Src)
  | mulhn (d : Opnd) (s : Src)
  | div (d : Opnd) (s : Src)
  | divn (d : Opnd) (s : Src)
  | rem (d : Opnd) (s : Src)
  | remn (d : Opnd) (s : Src)
  | and (d : Opnd) (s : Src)
  | or (d : Opnd) (s : Src)
  | xor (d : Opnd) (s : Src)
  | andn (d : Opnd) (s : Src)
  | shl (d : Opnd) (s : Src)
  | shr (d : Opnd) (s : Src)
  | sar (d : Opnd) (s : Src)
  | rol (d : Opnd) (s : Src)
  | min (d : Opnd) (s : Src)
  | max (d : Opnd) (s : Src)
  | minn (d : Opnd) (s : Src)
  | maxn (d : Opnd) (s : Src)
  | clz (d s : Opnd)
  | ctz (d s : Opnd)
  | popc (d s : Opnd)
  | ext (d s : Opnd) (w : Width) (sign : Bool)
  | mov (d s : Opnd)
  | movi (d : Opnd) (imm : Dword)
  | addi (d : Opnd) (imm : Dword)
  | shli (d : Opnd) (imm : Dword)
  | shri (d : Opnd) (imm : Dword)
  | sari (d : Opnd) (imm : Dword)
  | seq (d : Opnd) (s : Src)
  | slt (d : Opnd) (s : Src)
  | sltn (d : Opnd) (s : Src)
  | csel (d : Fin 24) (s t : Opnd)
  | br (disp : Dword)
  | call (disp : Dword)
  | jr (s : Fin 24)
  | jalr (d s : Fin 24)
  | bz (s : Fin 24) (disp : Dword)
  | bnz (s : Fin 24) (disp : Dword)
  | bltz (s : Fin 24) (disp : Dword)
  | bgez (s : Fin 24) (disp : Dword)
  | loop (s : Fin 24) (disp : Dword)
  | ld (d : Opnd) (m : MemOp) (w : Width)
  | ldsx (d : Opnd) (m : MemOp) (w : Width)
  | st (m : MemOp) (s : Opnd) (w : Width)
  | ldfe (d : Opnd) (m : MemOp)
  | stfe (m : MemOp) (s : Opnd)
  | ldacq (d : Opnd) (m : MemOp) (w : Width)
  | strel (m : MemOp) (s : Opnd) (w : Width)
  | amo (d t : Fin 24) (m : MemOp) (w : Width) (op : AmoOp)
  | cas (d t : Fin 24) (m : MemOp) (w : Width)
  | ifence (scope : Scope)
  | fenceRel (scope : Scope)
  | fenceAcq (scope : Scope)
  | fenceFull (scope : Scope)
  | qwait (d : Opnd) (n : BitVec 5)
  | gets (d : Opnd) (sel : BitVec 5)
  | spawn (d s t : Fin 24)
  | quit
  | lea (d : Fin 24) (m : MemOp)
  -- page 1 (R145)
  | fadd (x : P1) (d s : Opnd) (rm : Option RMode)
  | fsub (x : P1) (d s : Opnd) (rm : Option RMode)
  | fmul (x : P1) (d s : Opnd) (rm : Option RMode)
  | fdiv (x : P1) (d s : Opnd) (rm : Option RMode)
  | fsqrt (x : P1) (d s : Opnd) (rm : Option RMode)
  | fma (x : P1) (d s t : Opnd) (rm : Option RMode)
  | fms (x : P1) (d s t : Opnd) (rm : Option RMode)
  | fnma (x : P1) (d s t : Opnd) (rm : Option RMode)
  | fnms (x : P1) (d s t : Opnd) (rm : Option RMode)
  | fmin (x : P1) (d s : Opnd)
  | fmax (x : P1) (d s : Opnd)
  | fminm (x : P1) (d s : Opnd)
  | fmaxm (x : P1) (d s : Opnd)
  | fabs (x : P1) (d s : Opnd)
  | fneg (x : P1) (d s : Opnd)
  | fcpys (x : P1) (d s : Opnd)
  | fcmp (x : P1) (d s t : Opnd) (c : FCond)
  | fclass (x : P1) (d s : Opnd)
  | fcvt (x : P1) (d s : Opnd) (tt : Ty) (rm : Option RMode)
  | fcvti (x : P1) (d s : Opnd) (tt : Ty) (rm : Option RMode)
  | icvtf (x : P1) (d s : Opnd) (src : Ty) (rm : Option RMode)
  | frnd (x : P1) (d s : Opnd) (rm : Option RMode)
  | frem (x : P1) (d s : Opnd)
  | fscalb (x : P1) (d s : Opnd) (rm : Option RMode)
  | flogb (x : P1) (d s : Opnd)
  | fget (d : Fin 24) (ctl : Bool)
  | fset (s : Fin 24) (ctl : Bool)
  | qpack (x : P1) (d s : Fin 8) (tt : Ty) (rm : Option RMode)
  | bscl (x : P1) (d : Fin 16) (s : Fin 8) (tt : Ty)
  | vadd (x : P1) (d : Fin 8) (s : Src)
  | vsub (x : P1) (d : Fin 8) (s : Src)
  | vmul (x : P1) (d : Fin 8) (s : Src)
  | vand (x : P1) (d : Fin 8) (s : Src)
  | vor (x : P1) (d : Fin 8) (s : Src)
  | vxor (x : P1) (d : Fin 8) (s : Src)
  | vshl (x : P1) (d : Fin 8) (s : Src)
  | vshr (x : P1) (d : Fin 8) (s : Src)
  | vsar (x : P1) (d : Fin 8) (s : Src)
  | vmin (x : P1) (d : Fin 8) (s : Src)
  | vmax (x : P1) (d : Fin 8) (s : Src)
  | vsadd (x : P1) (d : Fin 8) (s : Src)
  | vcmp (x : P1) (d : Fin 8) (s t : Opnd) (c : ICond)
  | vmov (x : P1) (d : Fin 8) (s : Opnd)
  | vld (x : P1) (d : Fin 8) (m : MemOp)
  | vst (x : P1) (m : MemOp) (s : Fin 8)
  | vgath (x : P1) (d : Fin 8) (m : MemOp)
  | vscat (x : P1) (m : MemOp) (s : Fin 8)
  | vbcast (x : P1) (d : Fin 8) (s : Opnd)
  | vext (x : P1) (d : Fin 16) (s : Fin 8) (t : Fin 16)
  | vins (x : P1) (d : Fin 8) (s t : Fin 16)
  | vperm (x : P1) (d : Fin 8) (s t : Opnd)
  | vslide (x : P1) (d : Fin 8) (s : Src)
  | vred (x : P1) (d : Fin 8) (s : Opnd) (tree : Bool) (op : RedOp) (rm : Option RMode)
  | vscan (x : P1) (d : Fin 8) (s : Opnd) (tree : Bool) (op : RedOp) (rm : Option RMode)
  | vdot (x : P1) (d : Fin 8) (s t : Opnd) (sat : Bool)
  | kop (d s : Opnd) (op : KOp)
  | tunp (x : P1) (d s : Fin 8)
  | tacc (x : P1) (d : Fin 8) (s t : Opnd)
  | qunp (x : P1) (d s : Fin 8)
  -- page 2 (R146)
  | copy (d : Fin 24) (swz : Fin 8)
  | copy2d (d : Fin 24) (swz : Fin 8)
  | notice (d : Fin 24)
  | phinit (d s : Fin 24)
  | pharr (d s : Fin 24) (scope : Scope)
  | phwait (d s : Fin 24) (scope : Scope)
  | phread (d s : Fin 24) (scope : Scope)
  | mxprog (s : Fin 24)
  | mxcfg (n : Fin 8) (s : Fin 24)
  | mxgo
  | mma (acc : Fin 4) (z : Bool) (fmt : Option Ty) (d s : Fin 24) (t : Option (Fin 24)) (count : Dword)
  | mxldc (acc : Fin 4) (tag : Fin 3) (s : Fin 24)
  | mxstc (acc : Fin 4) (msk : Bool) (d s : Fin 24) (tt : Ty) (rm : Option RMode)
  | mxmask (s : Fin 24)
  | mxrcmd (d : Fin 24)
  | mxunf (s : Fin 24)
  | mxzero (acc : Fin 4)
  | rpnew (d s : Fin 24)
  | rpcat (d s : Fin 24)
  | rpsplit (d s : Fin 24)
  | rpsplice (d s : Fin 24) (keep : Bool)
  | rplen (d s : Fin 24)
  | rpsum (d s : Fin 24) (n : Fin 4)
  | rpfind (d s : Fin 24)
  | rpscan (d s : Fin 24)
  | rphold (d : Fin 24)
  | rpdrop (d : Fin 24)
  | rpdesc (d s : Fin 24)
  | rprefr (d : Fin 24)
  | rand (d s : Fin 24) (u : Bool)
  | accept (d s : Fin 24)
  | spobs (d s : Fin 24)
  | spobsSet (d s : Fin 24)
  | spshape (d s : Fin 24)
  | spshapeSet (d s : Fin 24)
  | topk (d s : Fin 24)
  | unmset (d s : Fin 24)
  | unmrank (d s : Fin 24)
  | unmdirty (d s : Fin 24)
  | unmclr (d s : Fin 24)
  | baddq (d s t : Fin 24) (fmt : Ty) (keep : Bool) (rm : Option RMode)
  | gwtake (d s : Fin 24)
  | brf (s t : Fin 24)
  | callf (d s t : Fin 24)
  -- page 3 (R147)
  | sysc (code : Dword)
  | brk (code : Dword)
  | trapret (skip : Bool)
  | getx (d : Fin 24) (sel : Fin 4)
  | setth (s : Fin 24)
  | gsignal (d : Fin 24)
  | gfail (d : Fin 24)
  | segnar (sg : Fin 8) (s t : Fin 24)
  | chkpt (n : Dword)
  | wake (d : Fin 24)
  | prd (d s : Fin 24)
  | pwr (d s : Fin 24)
  | slotsv (d s : Fin 24)
  | slotld (d s : Fin 24)
  | haltat (d s : Fin 24)
  | flushtk (d : Fin 24)
  | pginv (d s : Fin 24)
  | pgresume (d s : Fin 24)
  | ptagset (d s : Fin 24)
  | calset (d s : Fin 24)
  | glaunch (d s : Fin 24)
  | gcancel (d s : Fin 24)
  | scrub (d s : Fin 24)
  | capmk (d s : Fin 24)
  | travrepl (d s : Fin 24)
  -- the device's own steps; c is a core key, n a slot, k a cluster key, i an index into a list of the state
  | slotAllocate (i : Nat)
  | copyStreamerRun (i j : Nat)
  | copyChunkCount (i j : Nat)
  | noticePull (i : Nat)
  | engineErrorReport (c n : Nat)
  | phwaitReread (c n : Nat)
  | matrixUnitTake (c : Nat)
  | mxrcmdArrival (i : Nat)
  | matrixOpStart (c : Nat)
  | matrixOpComplete (c : Nat)
  | ropeEngineRun (k : Nat)
  | engineTakeOperation (u : EngUnit) (k i : Nat)
  | engineMailboxPost (i : Nat)
  | travelArrival (i : Nat)
  | arrivalQueueLand (c : Nat)
  | granaryToArrivalQueue (c : Nat)
  | travelCongestion (c n : Nat)
  | holderAdvertise (c : Nat)
  | wakeArrival (i : Nat)
  | bankPerform (i j : Nat)
  | relaxedReply (i : Nat)
  | relaxedFault (c n : Nat)
  | fullEmptyServe (c n : Nat)
  | linkEntryArrival (c : Nat) (d : Dir)
  | groupPlace (i : Nat)
  | imageCopy (c i : Nat)
  | threadStart (c n : Nat)
  | threadStop (c n : Nat)
  | nodeDispatch (gk i : Nat)
  | nodeComplete (gk i : Nat)
  | nodeFault (i : Nat)
  | nodeRetry (gk i : Nat)
  | walkStep (gk : Nat)
  | cancellingFinish (gk i : Nat)
  | graphComplete (gk : Nat)
  | interruptTake (c : Nat)
  | granaryWriteback (k i : Nat)
  | imageSeal (k i : Nat)
  | tenantStop (p : Nat)
  | threadHalt (c n : Nat)
  | debugHalt (c n : Nat)
  | translationWalk (i j : Nat)
  | pageRequestEntry (die : Nat)
  | pageWake (i : Nat)
  | migration (die : Nat)
  | scrubSweep (i : Nat)
  | packetEject (i j : Nat)
  | furlongBoundary (hop : Nat)
  | tokenRefill (die : Nat)
  | gwstartWrite (port : Nat) (x : Dword)
  | uePacketReceive (port : Nat) (pkt : UePacket)
  | inboundDma (req : DmaReq)
  | illegalInstruction (word : Half) (idx reason : Nat)
  | instructionFetchFault (rights : Bool)
  -- what only the outside of the device, the service, or the boot controller brings about
  | scrplReplyWrite (c n : Nat) (x : Dword)
  | capkeyWrite (p w : Nat) (x : Dword)
  | lctWrite (p n : Nat) (x : Dword)
  | granwbWrite (k : Nat) (x : Dword)
  | wlogRead (p : Nat)
  | miggoWrite (die : Nat) (x : Dword)
  | lctlWrite (port : Nat) (x : Dword)
  | linkTrained (port seen : Nat) (farRates : BitVec 2)
  | linkDown (port : Nat)
  | flitReplay (port : Nat)
  | gwdataRead (port : Nat)
  | gwdataWrite (port : Nat) (x : Dword)
  | flowOpen (port p f : Nat) (x : Dword)
  | flowClose (port p f : Nat) (x : Dword)
  | storagePortTrain (gen lanes : Nat)
  | mextWrite (x : Dword)
  | asignWrite (x : Dword)
  | registerWrite (addr x : Dword)
  | readBufferEviction (k i : Nat)
  | intqRead
  | deviceReset
  | attestationDone
  | powerLimit
  | thermalTrip
  | powerBelowLimit
  -- without operands, of page 3 and of the device
  | yield
  | iret
  | graphAccept
  deriving DecidableEq, Repr

end Sys2Proof
end

