-- ==== Sys2Proof/WellFormed.lean ====
section
/-! DEFINITION. Which terms of Instr stand for a group the ZB-T9 executes: the operand spaces of R135 and R136, the types,
scalar forms and masks of R181, the classes of R96, R97, R102 and R207 to R210, the selectors of each instruction, and the
immediates that a group of at most four prefix words can carry (R139, R143). The device's own steps are no groups. -/

namespace Sys2Proof

/-- The operand is one of the page-0 space (R135). -/
def Opnd.page0 : Opnd → Bool
  | .g _ | .q _ | .link _ => true
  | .v _ | .k _ | .b _ => false

/-- A g register of the page-0 space (R136). -/
def Opnd.isG : Opnd → Bool
  | .g _ => true
  | _ => false

/-- A queue or link name (R45). -/
def Opnd.isQL : Opnd → Bool
  | .q _ | .link _ => true
  | _ => false

/-- A vector register (R135). -/
def Opnd.isV : Opnd → Bool
  | .v _ => true
  | _ => false

/-- A k register as an ordinary operand (R135). -/
def Opnd.isK : Opnd → Bool
  | .k _ => true
  | _ => false

/-- A broadcast g register, codes 16 to 31 of the vector space (R135). -/
def Opnd.isB : Opnd → Bool
  | .b _ => true
  | _ => false

/-- A lanewise vector source: a v register or a broadcast g register (R179). -/
def Opnd.lane (o : Opnd) : Bool := o.isV || o.isB

/-- The floating types F (R181). -/
def Ty.isF : Ty → Bool
  | .f64 | .f32 | .f16 | .bf16 => true
  | _ => false

/-- The floating types F8 (R181). -/
def Ty.isF8 : Ty → Bool
  | .e4m3 | .e5m2 => true
  | t => t.isF

/-- The integer types I (R181). -/
def Ty.isI : Ty → Bool
  | .i64 | .i32 | .i16 | .i8 | .n64 | .n32 | .n16 | .n8 => true
  | _ => false

/-- The types A (R181). -/
def Ty.isA (t : Ty) : Bool := t.isF8 || t.isI

/-- x is the sign-extension of its low b bits. -/
def fitsS (b : Nat) (x : Dword) : Bool := decide (-(2 : Int) ^ (b - 1) ≤ x.toInt ∧ x.toInt < (2 : Int) ^ (b - 1))

/-- x is the zero-extension of its low b bits. -/
def fitsZ (b : Nat) (x : Dword) : Bool := decide (x.toNat < 2 ^ b)

/-- The immediate of a chain taken alone, sign-extended: zero without a word, else at most n words (R139). -/
def fitsAloneS (n : Nat) (x : Dword) : Bool := x == 0 || (decide (0 < n) && fitsS (10 * n) x)

/-- Prefix words a memory operand needs: none for class ordinary, sg0 and the default scope (R142). -/
def MemOp.words (m : MemOp) (dflt : Scope) : Nat :=
  if m.cls = .ord ∧ m.sg = 0 ∧ m.scope = dflt then 0 else 1

/-- Prefix words of a width: none for 64 bits (R140). -/
def Width.words (w : Width) : Nat := if w = .w64 then 0 else 1

/-- Prefix words of a rounding mode: none for the dynamic mode (R140). -/
def rmWords (rm : Option RMode) : Nat := if rm = none then 0 else 1

/-- A source of an RR instruction with its chain above the s field, k other prefix words in the group (R139). -/
def Src.wfS (k : Nat) (sp : Opnd → Bool) : Src → Bool
  | .op o => sp o
  | .imm x => fitsS (10 * (4 - k) + 5) x

def Src.wfZ (k : Nat) (sp : Opnd → Bool) : Src → Bool
  | .op o => sp o
  | .imm x => fitsZ (10 * (4 - k) + 5) x

/-- The memory operand's offset fits the chain left by k other prefix words, and its class is one of cs. -/
def MemOp.wf (m : MemOp) (dflt : Scope) (k : Nat) (cs : List Cls) : Bool :=
  fitsAloneS (4 - (k + m.words dflt)) m.off && cs.contains m.cls

/-- The scalar bit and the mask (R141, R181): a scalar form has mask 0, its type one of sp. -/
def P1.wf (x : P1) (sp : Ty → Bool) (scalarForm : Bool) : Bool :=
  sp x.ty && (!x.sc || (scalarForm && x.mask = 0))

/-- The destination of a lanewise instruction in either form (R179). -/
def P1.dst (x : P1) (d : Opnd) : Bool := if x.sc then d.page0 else d.isV

/-- A source of a lanewise instruction in either form (R179). -/
def P1.src (x : P1) (s : Opnd) : Bool := if x.sc then s.page0 else s.lane

/-- A group of n registers that starts at r stays within g0 to g23 (R136). -/
def regGroup (n : Nat) (r : Fin 24) : Bool := decide (r.val + n ≤ 24)

/-- The MMA formats of R237. -/
def Ty.mmaFmt : Ty → Bool
  | .f64 | .f32 | .f16 | .bf16 | .e4m3 | .e5m2 | .i8 | .q4x => true
  | _ => false

/-- The output types of MXSTC (R240). -/
def Ty.mxOut : Ty → Bool
  | .f64 | .f32 | .f16 | .bf16 | .e4m3 | .e5m2 | .i32 | .i8 => true
  | _ => false

/-- The target types of QPACK, BSCL and BADDQ (R181, R204). -/
def Ty.qTgt : Ty → Bool
  | .q4x | .e4m3 | .e5m2 => true
  | _ => false

/-- Loads take ordinary, RLX and RLX.C (R207). -/
def ldCls : List Cls := [.ord, .rlx, .rlxc]
/-- Stores and atomics take ordinary, RLX and RLX.A (R207, R210). -/
def stCls : List Cls := [.ord, .rlx, .rlxa]

/-- Without another use the scope and the class are the defaults. -/
def MemOp.plain (m : MemOp) : Bool := decide (m.cls = .ord) && decide (m.scope = .core)

/-- The instruction stands for a group that a core executes. -/
def Instr.wf : Instr → Bool
  | .add d s | .sub d s | .mul d s | .mulh d s | .mulhn d s | .div d s | .divn d s | .rem d s | .remn d s
  | .and d s | .or d s | .xor d s | .andn d s | .min d s | .max d s | .minn d s | .maxn d s
  | .seq d s | .slt d s | .sltn d s => d.page0 && s.wfS 0 Opnd.page0
  | .shl d s | .shr d s | .sar d s | .rol d s => d.page0 && s.wfZ 0 Opnd.page0
  | .clz d s | .ctz d s | .popc d s | .ext d s _ _ | .mov d s => d.page0 && s.page0
  | .movi d x | .addi d x => d.page0 && fitsS 45 x
  | .shli d x | .shri d x | .sari d x => d.page0 && fitsZ 45 x
  | .csel _ s t => s.page0 && t.page0
  | .br x | .call x => fitsS 50 x
  | .jr _ | .jalr _ _ => true
  | .bz _ x | .bnz _ x | .bltz _ x | .bgez _ x | .loop _ x => fitsS 45 x
  | .ld d m w | .ldsx d m w => d.page0 && (d.isG || m.cls = .ord) && m.wf .core w.words ldCls
  | .st m s w => s.page0 && m.wf .core w.words stCls
  | .ldfe d m => d.page0 && m.wf .core 0 [.ord, .rlx]
  | .stfe m s => s.page0 && m.wf .core 0 [.ord, .rlx]
  | .ldacq d m w => d.page0 && m.wf .pkg w.words [.ord]
  | .strel m s w => s.page0 && m.wf .pkg w.words [.ord]
  | .amo _ _ m w _ => (w = .w64 || w = .w32) && m.wf .core 1 stCls
  | .cas _ _ m w => (w = .w64 || w = .w32) && m.wf .core 1 stCls
  | .ifence _ | .fenceRel _ | .fenceAcq _ | .fenceFull _ => true
  | .qwait d n => d.isQL && (match d with | .q _ => decide (n.toNat ≤ 16) | _ => decide (n.toNat ≤ 8))
  | .gets d n => d.page0 && n.toNat != 7 && decide (n.toNat < 28)
  | .spawn _ s _ => regGroup 4 s
  | .quit => true
  | .lea _ m => m.wf .core 0 [.ord] && m.plain
  | .fadd x d s _ | .fsub x d s _ | .fmul x d s _ | .fdiv x d s _ | .fsqrt x d s _ | .frnd x d s _ =>
      x.wf Ty.isF true && x.dst d && x.src s
  | .fscalb x d s _ => x.wf Ty.isF true && x.dst d && x.src s
  | .fma x d s t _ | .fms x d s t _ | .fnma x d s t _ | .fnms x d s t _ =>
      x.wf Ty.isF true && x.dst d && x.src s && x.src t
  | .fmin x d s | .fmax x d s | .fminm x d s | .fmaxm x d s | .frem x d s | .flogb x d s =>
      x.wf Ty.isF true && x.dst d && x.src s
  | .fabs x d s | .fneg x d s | .fcpys x d s | .fclass x d s => x.wf Ty.isF8 true && x.dst d && x.src s
  | .fcmp x d s t _ => x.wf Ty.isF true && (if x.sc then d.page0 else d.isK) && x.src s && x.src t
  | .fcvt x d s tt _ => x.wf Ty.isF8 true && x.dst d && x.src s && tt.isF8
  | .fcvti x d s tt _ | .icvtf x d s tt _ => x.wf Ty.isF8 true && x.dst d && x.src s && tt.isI
  | .fget _ _ | .fset _ _ => true
  | .qpack x _ _ tt _ => x.wf (fun t => t = .f16 || t = .bf16) false && tt.qTgt
  | .bscl x _ _ tt => x.wf (fun t => t = .f16 || t = .bf16) false && tt.qTgt
  | .vadd x _ s | .vsub x _ s | .vmul x _ s | .vand x _ s | .vor x _ s | .vxor x _ s | .vmin x _ s | .vmax x _ s
  | .vsadd x _ s => x.wf Ty.isI false && s.wfS 1 Opnd.lane
  | .vshl x _ s | .vshr x _ s | .vsar x _ s => x.wf Ty.isI false && s.wfZ 1 Opnd.lane
  | .vcmp x _ s t _ => x.wf Ty.isI false && s.lane && t.lane
  | .vmov x _ s | .vbcast x _ s => x.wf Ty.isA false && s.lane
  | .vld x _ m | .vgath x _ m => x.wf Ty.isA false && decide (m.base.val < 16) && decide (m.scope = .core) && m.wf .core 1 ldCls
  | .vst x m _ => x.wf Ty.isA false && decide (m.base.val < 16) && decide (m.scope = .core) && m.wf .core 1 stCls
  | .vscat x m s => x.wf Ty.isA false && decide (m.base.val < 16) && decide (m.scope = .core) && m.wf .core 1 stCls && decide (s.val % 2 = 0)
  | .vext x _ _ _ | .vins x _ _ _ => x.wf Ty.isA false && decide (x.mask = 0)
  | .vperm x _ s t => x.wf Ty.isA false && s.lane && t.lane
  | .vslide x _ s => x.wf Ty.isA false && s.wfZ 1 Opnd.isB
  | .vred x _ s _ _ rm | .vscan x _ s _ _ rm =>
      x.wf (fun t => t.isF || t.isI) false && s.lane && (x.ty.isF || rm = some .rne)
  | .vdot x _ s t _ => x.wf (fun t => t = .i8 || t = .n8 || t = .i16 || t = .n16) false && s.lane && t.lane
  | .kop d s op => (match op with
      | .and | .or | .xor | .andn | .not => d.isK && s.isK
      | .pop | .first => d.isB && s.isK
      | .mov => (d.isK || d.isB) && (s.isK || s.isB) && !(d.isB && s.isB))
  | .tunp x _ _ => x.wf (fun t => t = .i8) false
  | .tacc x _ s t => x.wf (fun t => t = .i32) false && s.lane && t.lane
  | .qunp x _ _ => x.wf (fun t => t = .f16 || t = .bf16) false
  | .copy d _ => regGroup 4 d
  | .copy2d d _ => regGroup 6 d
  | .notice d => regGroup 5 d
  | .phinit _ _ | .pharr _ _ _ | .phwait _ _ _ => true
  | .phread d _ _ => regGroup 2 d
  | .mxprog _ | .mxgo | .mxmask _ | .mxunf _ | .mxzero _ => true
  | .mxcfg n _ => decide (n.val ≠ 5)
  | .mma _ _ f _ _ t n => (match f with | some ty => ty.mmaFmt | none => true) && fitsZ (if t.isSome then 20 else 30) n
  | .mxldc _ _ _ => true
  | .mxstc _ msk _ s tt _ => regGroup 2 s && tt.mxOut && !(msk && (tt = .e4m3 || tt = .i32 || tt = .i8))
  | .mxrcmd d => regGroup 4 d
  | .rpnew _ s => regGroup 3 s
  | .rpcat _ _ | .rplen _ _ | .rphold _ | .rpdrop _ | .rpdesc _ _ | .rprefr _ => true
  | .rpsplit d _ => regGroup 2 d
  | .rpsplice _ s _ => regGroup 3 s
  | .rpsum d _ _ => regGroup 2 d
  | .rpfind d s => regGroup 3 d && regGroup 2 s
  | .rpscan d s => regGroup 2 d && regGroup 6 s
  | .rand d s _ => regGroup 2 d && regGroup 3 s
  | .accept d s => regGroup 2 d && regGroup 2 s
  | .spobs _ _ | .spobsSet _ _ => true
  | .spshape d _ | .spshapeSet d _ => regGroup 3 d
  | .topk _ s => regGroup 4 s
  | .unmset _ _ => true
  | .unmrank d s | .unmclr d s => regGroup 2 d && regGroup 2 s
  | .unmdirty d s => regGroup 2 d && regGroup 3 s
  | .baddq _ _ _ f _ _ => f.qTgt
  | .gwtake _ _ | .brf _ _ | .callf _ _ _ => true
  | .sysc x | .brk x | .chkpt x => fitsZ 35 x
  | .trapret _ | .getx _ _ | .setth _ | .gsignal _ | .gfail _ | .segnar _ _ _ | .yield | .wake _ => true
  | .prd _ _ | .pwr _ _ | .slotsv _ _ | .slotld _ _ | .haltat _ _ | .flushtk _ | .pginv _ _ | .pgresume _ _
  | .ptagset _ _ | .calset _ _ | .glaunch _ _ | .gcancel _ _ | .scrub _ _ | .capmk _ _ | .travrepl _ _ | .iret => true
  | .slotAllocate _ | .copyStreamerRun _ _ | .copyChunkCount _ _ | .noticePull _ | .engineErrorReport _ _
  | .phwaitReread _ _ | .matrixUnitTake _ | .mxrcmdArrival _ | .matrixOpStart _ | .matrixOpComplete _
  | .ropeEngineRun _ | .engineTakeOperation _ _ _ | .engineMailboxPost _ | .travelArrival _ | .arrivalQueueLand _
  | .granaryToArrivalQueue _ | .travelCongestion _ _ | .holderAdvertise _ | .wakeArrival _ | .bankPerform _ _
  | .relaxedReply _ | .relaxedFault _ _ | .fullEmptyServe _ _ | .linkEntryArrival _ _ | .groupPlace _
  | .imageCopy _ _ | .threadStart _ _ | .threadStop _ _ | .nodeDispatch _ _ | .nodeComplete _ _ | .nodeFault _
  | .nodeRetry _ _ | .walkStep _ | .cancellingFinish _ _ | .graphAccept | .graphComplete _ | .interruptTake _
  | .intqRead | .scrplReplyWrite _ _ _ | .capkeyWrite _ _ _ | .lctWrite _ _ _ | .granwbWrite _ _
  | .granaryWriteback _ _ | .imageSeal _ _ | .tenantStop _ | .threadHalt _ _ | .debugHalt _ _ | .wlogRead _
  | .translationWalk _ _ | .pageRequestEntry _ | .pageWake _ | .miggoWrite _ _ | .migration _ | .scrubSweep _
  | .packetEject _ _ | .furlongBoundary _ | .tokenRefill _ | .lctlWrite _ _ | .linkTrained _ _ _ | .linkDown _
  | .flitReplay _ | .gwstartWrite _ _ | .gwdataRead _ | .gwdataWrite _ _ | .flowOpen _ _ _ _ | .flowClose _ _ _ _
  | .uePacketReceive _ _ | .storagePortTrain _ _ | .deviceReset | .mextWrite _ | .asignWrite _ | .attestationDone
  | .powerLimit | .thermalTrip | .registerWrite _ _ | .illegalInstruction _ _ _ | .instructionFetchFault _
  | .readBufferEviction _ _ | .inboundDma _ | .powerBelowLimit => false

end Sys2Proof
end

