-- ==== Sys2Proof/Decode.lean ====
section
/-! DEFINITION. Forming and decoding an instruction group (R131 to R149), with the reason, the offending word and its index of
R148 for every group that is not an instruction; after it the encoder, which follows the prefix choice of R21 and R150. -/

namespace Sys2Proof

/-- Bits hi down to lo of an instruction word. -/
def fld (w hi lo : Nat) : Nat := w / 2 ^ lo % 2 ^ (hi + 1 - lo)

/-- Bits [15:12] are 1111 (R131). -/
def isPrefixWord (w : Half) : Bool := decide (fld w.toNat 15 12 = 15)

/-- A base word's format (R134). -/
inductive Fmt where
  | rr | ri | b | bc
  deriving DecidableEq, Repr

/-- How an instruction takes the PFX.I chain (R139, R144). -/
inductive ImmUse where
  | no | aboveS | aboveZ | aloneS | aloneZ
  deriving DecidableEq, Repr

/-- PFX.R: not used, accepted, required (R140). -/
inductive RUse where
  | no | opt | req
  deriving DecidableEq, Repr

/-- What an operand field may hold. -/
inductive OKind where
  /-- not named: must be zero (R134, R140) -/
  | zero
  /-- used as a number, judged on its own -/
  | num
  /-- any code of the page-0 space -/
  | any
  /-- the first of n registers of g0 to g23 (R136) -/
  | grp (n : Nat)
  /-- lanewise source: v or broadcast g; the page-0 space in the scalar form (R179) -/
  | lane
  /-- lanewise destination: v; the page-0 space in the scalar form -/
  | dst
  /-- v register -/
  | vec
  /-- v0, v2, v4 or v6 (R197) -/
  | veven
  /-- k register; the page-0 space in the scalar form (R185) -/
  | msk
  /-- codes 16 to 31 of the vector space -/
  | bg
  deriving DecidableEq, Repr

/-- An operation's row of R144 to R147. -/
structure OpInfo where
  fmt : Fmt
  imm : ImmUse
  r   : RUse
  m   : Bool
  d   : OKind
  s   : OKind
  t   : OKind
  deriving DecidableEq, Repr

/-- A group taken apart: every prefix field (zero when its prefix is absent), with the index of its word (R138 to R142). -/
structure Grp where
  n     : Nat := 0
  chain : Nat := 0
  ival  : Nat := 0
  iIdx  : Nat := 0
  hasR  : Bool := false
  rIdx  : Nat := 0
  t     : Nat := 0
  width : Nat := 0
  mode  : Nat := 0
  hasP  : Bool := false
  pIdx  : Nat := 0
  page  : Nat := 0
  flags : Nat := 0
  hasM  : Bool := false
  mIdx  : Nat := 0
  cls   : Nat := 0
  scope : Nat := 0
  seg   : Nat := 0
  base  : Nat := 0
  lastI : Bool := false
  deriving DecidableEq, Repr

/-- PFX.P's element type, scalar bit and mask on page 1 (R138). -/
def Grp.ty (g : Grp) : Nat := fld g.flags 7 4
def Grp.sc (g : Grp) : Bool := decide (fld g.flags 3 3 = 1)
def Grp.mask (g : Grp) : Nat := fld g.flags 2 0
def Grp.opc (g : Grp) : Nat := fld g.base 15 10
def Grp.d (g : Grp) : Nat := fld g.base 9 5
def Grp.s (g : Grp) : Nat := fld g.base 4 0

/-- One reason with the index of its word, when c holds. -/
def bad (c : Bool) (idx reason : Nat) : List (Nat × Nat) := if c then [(idx, reason)] else []

/-- Take one prefix word at index k into the group, with the reasons it carries on its own (R143, R148: 2, 3, 5, 9). -/
def takePrefix (g : Grp) (k w : Nat) : Grp × List (Nat × Nat) :=
  match fld w 11 10 with
  | 0 =>
    if g.chain ≠ 0 ∧ ¬ g.lastI then ({ g with n := k + 1, lastI := true }, [(k, 2)])
    else ({ g with n := k + 1, chain := g.chain + 1, ival := g.ival * 1024 + fld w 9 0,
                   iIdx := if g.chain = 0 then k else g.iIdx, lastI := true }, [])
  | 1 =>
    if g.hasR then ({ g with n := k + 1, lastI := false }, [(k, 2)])
    else ({ g with n := k + 1, hasR := true, rIdx := k, t := fld w 9 5, width := fld w 4 3, mode := fld w 2 0,
                   lastI := false }, [])
  | 2 =>
    if g.hasP then ({ g with n := k + 1, lastI := false }, [(k, 2)])
    else ({ g with n := k + 1, hasP := true, pIdx := k, page := fld w 9 8, flags := fld w 7 0, lastI := false },
          bad (fld w 9 8 == 0) k 3)
  | _ =>
    if g.hasM then ({ g with n := k + 1, lastI := false }, [(k, 2)])
    else ({ g with n := k + 1, hasM := true, mIdx := k, cls := fld w 9 8, scope := fld w 7 5, seg := fld w 4 2,
                   lastI := false },
          bad (fld w 1 0 != 0) k 5 ++ bad (decide (5 < fld w 7 5)) k 9)

/-- The words of the group that starts here: the prefix words, then the base word; `none` for the base word when a fifth
prefix stands in its place or the words run out, with reason 1 or 8 (R148). -/
def formGroup (g : Grp) (k : Nat) : List Half → Grp × List (Nat × Nat) × Bool
  | [] => (g, [(k, 8)], false)
  | w :: ws =>
    if isPrefixWord w then
      if 4 ≤ k then (g, [(k, 1)], false)
      else
        let (g', e) := takePrefix g k w.toNat
        let (g'', e', ok) := formGroup g' (k + 1) ws
        (g'', e ++ e', ok)
    else ({ g with base := w.toNat }, [], true)

/-- The row of an operation of a page and opcode, or none for opcode 0x00 and the reserved opcodes (R144 to R147). -/
def opInfo (page opc : Nat) : Option OpInfo :=
  let rr (imm : ImmUse) (d s : OKind) : OpInfo := ⟨.rr, imm, .no, false, d, s, .zero⟩
  let mem (r : RUse) (d s : OKind) : OpInfo := ⟨.rr, .aloneS, r, true, d, s, .zero⟩
  let rnd (d s : OKind) : OpInfo := ⟨.rr, .no, .opt, false, d, s, .zero⟩
  let three (d s t : OKind) : OpInfo := ⟨.rr, .no, .req, false, d, s, t⟩
  let eng (d s : OKind) : OpInfo := ⟨.rr, .no, .opt, false, d, s, .zero⟩
  match page with
  | 0 =>
    if opc = 0 then none
    else if opc ≤ 0x0D then some (rr .aboveS .any .any)
    else if opc ≤ 0x11 then some (rr .aboveZ .any .any)
    else if opc ≤ 0x15 then some (rr .aboveS .any .any)
    else if opc ≤ 0x18 then some (rr .no .any .any)
    else if opc = 0x19 then some ⟨.rr, .no, .req, false, .any, .any, .zero⟩
    else if opc = 0x1A then some (rr .no .any .any)
    else if opc ≤ 0x1C then some ⟨.ri, .aboveS, .no, false, .any, .num, .zero⟩
    else if opc ≤ 0x1F then some ⟨.ri, .aboveZ, .no, false, .any, .num, .zero⟩
    else if opc ≤ 0x22 then some (rr .aboveS .any .any)
    else if opc = 0x23 then some (three (.grp 1) .any .any)
    else if opc ≤ 0x25 then some ⟨.b, .aboveS, .no, false, .num, .num, .zero⟩
    else if opc = 0x26 then some (rr .no .zero (.grp 1))
    else if opc = 0x27 then some (rr .no (.grp 1) (.grp 1))
    else if opc ≤ 0x2C then some ⟨.bc, .aboveS, .no, false, .grp 1, .num, .zero⟩
    else if opc ≤ 0x2E then some (mem .opt .any (.grp 1))
    else if opc = 0x2F then some (mem .opt (.grp 1) .any)
    else if opc = 0x30 then some (mem .no .any (.grp 1))
    else if opc = 0x31 then some (mem .no (.grp 1) .any)
    else if opc = 0x32 then some (mem .opt .any (.grp 1))
    else if opc = 0x33 then some (mem .opt (.grp 1) .any)
    else if opc ≤ 0x35 then some ⟨.rr, .aloneS, .req, true, .grp 1, .grp 1, .grp 1⟩
    else if opc = 0x36 then some ⟨.ri, .no, .no, false, .zero, .num, .zero⟩
    else if opc = 0x37 then some ⟨.ri, .no, .no, false, .num, .num, .zero⟩
    else if opc = 0x38 then some ⟨.ri, .no, .no, false, .any, .num, .zero⟩
    else if opc = 0x39 then some (three (.grp 1) (.grp 4) (.grp 1))
    else if opc = 0x3A then some (rr .no .zero .zero)
    else if opc = 0x3B then some (mem .no (.grp 1) (.grp 1))
    else none
  | 1 =>
    if opc = 0 then none
    else if opc ≤ 0x05 then some (rnd .dst .lane)
    else if opc ≤ 0x09 then some (three .dst .lane .lane)
    else if opc ≤ 0x10 then some (rr .no .dst .lane)
    else if opc = 0x11 then some (three .msk .lane .lane)
    else if opc = 0x12 then some (rr .no .dst .lane)
    else if opc ≤ 0x14 then some (three .dst .lane .num)
    else if opc = 0x15 then some ⟨.rr, .no, .opt, false, .dst, .lane, .num⟩
    else if opc = 0x16 then some (rnd .dst .lane)
    else if opc = 0x17 then some (rr .no .dst .lane)
    else if opc = 0x18 then some (rnd .dst .lane)
    else if opc = 0x19 then some (rr .no .dst .lane)
    else if opc = 0x1A then some (three (.grp 1) .zero .zero)
    else if opc = 0x1B then some (three .zero (.grp 1) .zero)
    else if opc = 0x1C then some ⟨.rr, .no, .opt, false, .vec, .vec, .num⟩
    else if opc = 0x1D then some ⟨.rr, .no, .opt, false, .bg, .vec, .num⟩
    else if opc ≤ 0x23 then some (rr .aboveS .vec .lane)
    else if opc ≤ 0x26 then some (rr .aboveZ .vec .lane)
    else if opc ≤ 0x29 then some (rr .aboveS .vec .lane)
    else if opc = 0x2A then some (three .msk .lane .lane)
    else if opc = 0x2B then some (rr .no .vec .lane)
    else if opc = 0x2C then some (mem .no .vec .bg)
    else if opc = 0x2D then some (mem .no .bg .vec)
    else if opc = 0x2E then some (mem .no .vec .bg)
    else if opc = 0x2F then some (mem .no .bg .veven)
    else if opc = 0x30 then some (rr .no .vec .lane)
    else if opc = 0x31 then some (three .bg .vec .bg)
    else if opc = 0x32 then some (three .vec .bg .bg)
    else if opc = 0x33 then some (three .vec .lane .lane)
    else if opc = 0x34 then some (rr .aboveZ .vec .bg)
    else if opc ≤ 0x36 then some (three .vec .lane .num)
    else if opc = 0x37 then some (three .vec .lane .lane)
    else if opc = 0x38 then some (three .num .num .zero)
    else if opc = 0x39 then some (rr .no .vec .vec)
    else if opc = 0x3A then some (three .vec .lane .lane)
    else if opc = 0x3B then some (rr .no .vec .vec)
    else none
  | 2 =>
    if opc = 0 then none
    else if opc = 0x01 then some (rr .no (.grp 4) .zero)
    else if opc = 0x02 then some (rr .no (.grp 6) .zero)
    else if opc = 0x03 then some (rr .no (.grp 5) .zero)
    else if opc ≤ 0x06 then some ⟨.rr, .no, .no, true, .grp 1, .grp 1, .zero⟩
    else if opc = 0x07 then some ⟨.rr, .no, .no, true, .grp 2, .grp 1, .zero⟩
    else if opc ≤ 0x09 then some (rr .no .zero (.grp 1))
    else if opc = 0x0A then some (rr .no .zero .zero)
    else if opc = 0x0B then some ⟨.rr, .aloneZ, .opt, false, .grp 1, .grp 1, .grp 1⟩
    else if opc = 0x0C then some (rr .no .zero (.grp 1))
    else if opc = 0x0D then some (three (.grp 1) (.grp 2) .num)
    else if opc = 0x0E then some (rr .no .zero (.grp 1))
    else if opc = 0x0F then some (rr .no (.grp 4) .zero)
    else if opc = 0x10 then some (rr .no .zero (.grp 1))
    else if opc = 0x11 then some (rr .no .zero .zero)
    else if opc = 0x12 then some (eng (.grp 1) (.grp 3))
    else if opc = 0x13 then some (eng (.grp 1) (.grp 1))
    else if opc = 0x14 then some (eng (.grp 2) (.grp 1))
    else if opc = 0x15 then some (eng (.grp 1) (.grp 3))
    else if opc = 0x16 then some (eng (.grp 1) (.grp 1))
    else if opc = 0x17 then some (eng (.grp 2) (.grp 1))
    else if opc = 0x18 then some (eng (.grp 3) (.grp 2))
    else if opc = 0x19 then some (eng (.grp 2) (.grp 6))
    else if opc ≤ 0x1B then some (eng (.grp 1) .zero)
    else if opc = 0x1C then some (eng (.grp 1) (.grp 1))
    else if opc = 0x1D then some (eng (.grp 1) .zero)
    else if opc = 0x1E then some (eng (.grp 2) (.grp 3))
    else if opc = 0x1F then some (eng (.grp 2) (.grp 2))
    else if opc = 0x20 then some (eng (.grp 1) (.grp 1))
    else if opc = 0x21 then some (eng (.grp 3) (.grp 1))
    else if opc = 0x22 then some (eng (.grp 1) (.grp 4))
    else if opc = 0x23 then some (eng (.grp 1) (.grp 1))
    else if opc = 0x24 then some (eng (.grp 2) (.grp 2))
    else if opc = 0x25 then some (eng (.grp 2) (.grp 3))
    else if opc = 0x26 then some (eng (.grp 2) (.grp 2))
    else if opc = 0x27 then some ⟨.rr, .no, .opt, false, .grp 1, .grp 1, .grp 1⟩
    else if opc = 0x28 then some (eng (.grp 1) (.grp 1))
    else if opc = 0x29 then some (three .zero (.grp 1) (.grp 1))
    else if opc = 0x2A then some (three (.grp 1) (.grp 1) (.grp 1))
    else none
  | 3 =>
    if opc = 0 then none
    else if opc ≤ 0x02 then some ⟨.ri, .aboveZ, .no, false, .zero, .num, .zero⟩
    else if opc = 0x03 then some ⟨.ri, .no, .no, false, .zero, .num, .zero⟩
    else if opc = 0x04 then some ⟨.ri, .no, .no, false, .grp 1, .num, .zero⟩
    else if opc = 0x05 then some (rr .no .zero (.grp 1))
    else if opc ≤ 0x07 then some (rr .no (.grp 1) .zero)
    else if opc = 0x08 then some (three .num (.grp 1) (.grp 1))
    else if opc = 0x09 then some ⟨.ri, .aboveZ, .no, false, .zero, .num, .zero⟩
    else if opc = 0x0A then some (rr .no .zero .zero)
    else if opc = 0x0B then some (rr .no (.grp 1) .zero)
    else if opc < 0x10 then none
    else if opc = 0x15 then some (rr .no (.grp 1) .zero)
    else if opc ≤ 0x1E then some (rr .no (.grp 1) (.grp 1))
    else if opc = 0x1F then some (rr .no .zero .zero)
    else none
  | _ => none

/-- The reasons of one operand field that holds code, at word idx (R135, R136, R179). -/
def fieldBad (k : OKind) (sc : Bool) (code idx : Nat) : List (Nat × Nat) :=
  match k with
  | .zero => bad (code != 0) idx 5
  | .num | .any => []
  | .grp n => bad (decide (24 < code + n)) idx 10
  | .lane => bad (!sc && decide (8 ≤ code) && decide (code < 16)) idx 10
  | .dst => bad (!sc && decide (8 ≤ code)) idx 10
  | .vec => bad (!sc && decide (8 ≤ code)) idx 10
  | .veven => bad (!sc && (decide (8 ≤ code) || code % 2 != 0)) idx 10
  | .msk => bad (!sc && (decide (code < 8) || decide (16 ≤ code))) idx 10
  | .bg => bad (!sc && decide (code < 16)) idx 10

/-- Whether code is one of the floating types F8, or of the integer types I (R137, R181). -/
def codeF8 (c : Nat) : Bool := decide (c < 6)
def codeI (c : Nat) : Bool := (decide (6 ≤ c) && decide (c ≤ 12)) || c == 15

/-- Whether PFX.R's mode is a rounding mode (R140). -/
def usesRounding (page opc ty : Nat) : Bool :=
  match page with
  | 1 => decide (1 ≤ opc ∧ opc ≤ 9) || opc == 0x13 || opc == 0x14 || opc == 0x15 || opc == 0x16 || opc == 0x18 ||
      opc == 0x1C || ((opc == 0x35 || opc == 0x36) && !codeI ty)
  | 2 => opc == 0x0D || opc == 0x27
  | _ => false

/-- The largest mode value, where the mode is a condition or a sub-operation; none where every bit must be zero. -/
def modeLimit (page opc : Nat) : Option Nat :=
  match page with
  | 0 => if opc = 0x34 then some 7 else none
  | 1 => if opc = 0x11 then some 7 else if opc = 0x1A ∨ opc = 0x1B then some 1 else if opc = 0x2A then some 5
         else if opc = 0x37 then some 1 else if opc = 0x38 then some 7 else none
  | _ => none

/-- The reasons of PFX.R's width and mode (R140, R158, R194, R210, R237). -/
def modeBad (g : Grp) : List (Nat × Nat) :=
  let page := g.page
  let opc := g.opc
  let w :=
    if page = 0 ∧ (opc = 0x34 ∨ opc = 0x35) then bad (decide (1 < g.width)) g.rIdx 10
    else if page = 0 ∧ (opc = 0x19 ∨ opc = 0x2D ∨ opc = 0x2E ∨ opc = 0x2F ∨ opc = 0x32 ∨ opc = 0x33) then []
    else bad (g.width != 0) g.rIdx 5
  let m :=
    if page = 0 ∧ opc = 0x19 then bad (g.mode % 4 != 0) g.rIdx 5
    else if page = 2 ∧ opc = 0x0B then bad (decide (1 < g.mode)) g.rIdx 5
    else if page = 1 ∧ (opc = 0x35 ∨ opc = 0x36) ∧ codeI g.ty then []
    else if usesRounding page opc g.ty then bad (g.mode == 5 || g.mode == 6) g.rIdx 9
    else match modeLimit page opc with
      | some n => bad (decide (n < g.mode)) g.rIdx 10
      | none => bad (g.mode != 0) g.rIdx 5
  w ++ m

/-- The reasons of a t field that holds a type code or the selector of VRED and VSCAN (R181, R194, R199, R240). Two are the model's choice,
where R148 leaves it open (entry 86): an unaccepted type code of FCVT, FCVTI, ICVTF, QPACK or BSCL is reason 10, and the mask flag of MXSTC
with type 4, 7 or 9 is reported at the PFX.R that holds the type. -/
def tCodeBad (g : Grp) : List (Nat × Nat) :=
  let idx := g.rIdx
  match g.page, g.opc with
  | 1, 0x13 => bad (!codeF8 g.t) idx 10
  | 1, 0x14 => bad (!codeI g.t) idx 10
  | 1, 0x15 => bad (!codeI g.t) idx 10
  | 1, 0x1C => bad (!(g.t == 13 || g.t == 4 || g.t == 5)) idx 10
  | 1, 0x1D => bad (!(g.t == 13 || g.t == 4 || g.t == 5)) idx 10
  | 1, 0x35 => bad (decide (8 ≤ g.t)) idx 5 ++ bad (fld g.t 2 1 == 3) idx 10
  | 1, 0x36 => bad (decide (8 ≤ g.t)) idx 5 ++ bad (fld g.t 2 1 == 3) idx 10
  | 2, 0x0D => bad (!(decide (g.t < 6) || g.t == 7 || g.t == 9)) idx 10 ++
      bad (fld g.flags 2 2 == 1 && (g.t == 4 || g.t == 7 || g.t == 9)) idx 11
  | _, _ => []

/-- The element types a page-1 instruction accepts, and whether it has a scalar form (R181). -/
def p1Types (opc ty : Nat) : Bool × Bool :=
  let f := decide (ty < 4)
  let f8 := codeF8 ty
  let i := codeI ty
  if opc ≤ 0x0D then (f, true)
  else if opc ≤ 0x10 then (f8, true)
  else if opc = 0x11 then (f, true)
  else if opc ≤ 0x15 then (f8, true)
  else if opc ≤ 0x19 then (f, true)
  else if opc ≤ 0x1B then (ty == 0, true)
  else if opc ≤ 0x1D then (ty == 2 || ty == 3, false)
  else if opc ≤ 0x2A then (i, false)
  else if opc ≤ 0x34 then (f8 || i, false)
  else if opc ≤ 0x36 then (f || i, false)
  else if opc = 0x37 then (ty == 8 || ty == 9 || ty == 11 || ty == 12, false)
  else if opc = 0x38 then (ty == 0, false)
  else if opc = 0x39 then (ty == 9, false)
  else if opc = 0x3A then (ty == 7, false)
  else (ty == 2 || ty == 3, false)

/-- The PFX.P flag bits an instruction of page 2 defines (R141); page 3 defines none. -/
def flagBits (page opc : Nat) : Nat :=
  match page with
  | 2 =>
    if opc = 0x01 ∨ opc = 0x02 ∨ opc = 0x09 ∨ opc = 0x0D ∨ opc = 0x27 then 8
    else if opc = 0x0B then 256
    else if opc = 0x0C then 16
    else if opc = 0x11 ∨ opc = 0x17 then 4
    else if opc = 0x15 ∨ opc = 0x1E ∨ opc = 0x20 ∨ opc = 0x21 then 2
    else 1
  | _ => 1

/-- The MMA formats of R237 by code. -/
def codeMma (c : Nat) : Bool := decide (c < 6) || c == 9 || c == 13

/-- The reasons of PFX.P for the instruction (R141, R181, R204, R234, R237, R238). For MMA with flags[7] = 1 and flags[6:3] not 0, R237 names
no reason: the model's choice is 10 (entry 86). -/
def pfxPBad (g : Grp) : List (Nat × Nat) :=
  let idx := g.pIdx
  match g.page with
  | 0 => []
  | 1 =>
    let ok := p1Types g.opc g.ty
    let onlyScalar := g.opc == 0x1A || g.opc == 0x1B
    let noMask := onlyScalar || g.opc == 0x31 || g.opc == 0x32 || g.opc == 0x38
    bad (!ok.1) idx 11 ++ bad (if onlyScalar then !g.sc else (g.sc && !ok.2)) idx 11 ++
      bad (g.mask != 0 && (g.sc || noMask)) idx 11
  | page =>
    let f := g.flags
    bad (decide (flagBits page g.opc ≤ f)) idx 5 ++
      bad (page == 2 && ((g.opc == 0x09 && f % 8 == 5) || (g.opc == 0x27 && f % 4 == 3) ||
        (g.opc == 0x0C && fld f 3 2 == 3) ||
        (g.opc == 0x0B && (if fld f 7 7 = 1 then fld f 6 3 != 0 else !codeMma (fld f 6 3))))) idx 10

/-- The access classes an instruction accepts (R96, R97, R102, R196, R197, R207 to R210, R221). -/
def clsOk (page opc cls : Nat) : Bool :=
  match page with
  | 0 =>
    if opc = 0x2D ∨ opc = 0x2E then cls != 2
    else if opc = 0x2F ∨ opc = 0x34 ∨ opc = 0x35 then cls != 3
    else if opc = 0x30 ∨ opc = 0x31 then decide (cls < 2)
    else cls == 0
  | 1 => if opc = 0x2C ∨ opc = 0x2E then cls != 2 else if opc = 0x2D ∨ opc = 0x2F then cls != 3 else cls == 0
  | _ => cls == 0

/-- The reasons of PFX.M for the instruction (R142, R146, R213): the vector accesses use no scope, PHINIT neither class nor scope. A
class on PHARR, PHWAIT or PHREAD is one not accepted, reason 11 (entry 67). -/
def pfxMBad (g : Grp) : List (Nat × Nat) :=
  let idx := g.mIdx
  if ¬ g.hasM then []
  else if g.page = 0 ∧ g.opc = 0x3B then bad (g.cls != 0 || g.scope != 0) idx 5
  else bad (!clsOk g.page g.opc g.cls) idx 11 ++
    bad (g.page == 2 && (g.seg != 0 || (g.opc == 0x04 && (g.cls != 0 || g.scope != 0)))) idx 5 ++
    bad (g.page == 1 && g.scope != 0) idx 5

/-- The KOP operand codes of R195. -/
def kopOk (mode d s : Nat) : Bool :=
  let k (c : Nat) : Bool := decide (8 ≤ c) && decide (c < 16)
  let b (c : Nat) : Bool := decide (16 ≤ c)
  if mode < 5 then k d && k s
  else if mode < 7 then b d && k s
  else (k d || b d) && (k s || b s) && !(b d && b s)

/-- The reasons of immediates, counts and selectors (R101, R164, R165, R166, R169, R170, R176, R195, R237). Two are the model's choice, where
R148 leaves it open (entry 86): QPACK and BSCL without PFX.R are reason 10 at the base word, and the operand codes of KOP without its PFX.R
are reason 10 where no mode accepts them. -/
def selBad (g : Grp) : List (Nat × Nat) :=
  let wb := g.n
  match g.page, g.opc with
  | 0, 0x36 => bad (decide (5 < g.s % 8)) wb 9
  | 0, 0x37 => bad (decide (g.d < 24) || decide ((if g.d < 28 then 16 else 8) < g.s)) wb 10
  | 0, 0x38 => bad (g.s == 7 || decide (28 ≤ g.s)) wb 10
  | 0, 0x2D => bad (g.cls != 0 && decide (24 ≤ g.d)) wb 10
  | 0, 0x2E => bad (g.cls != 0 && decide (24 ≤ g.d)) wb 10
  | 1, 0x1C => bad (!g.hasR) wb 10
  | 1, 0x1D => bad (!g.hasR) wb 10
  | 1, 0x38 => bad (if g.hasR then !kopOk g.mode g.d g.s else !(List.range 8).any (fun m => kopOk m g.d g.s)) wb 10
  | 2, 0x0B => bad (decide (2 ^ 32 ≤ g.ival)) g.iIdx 10
  | 3, 0x03 => bad (decide (1 < g.s)) wb 10
  | 3, 0x04 => bad (decide (3 < g.s)) wb 10
  | 3, 0x08 => bad (decide (7 < g.d)) wb 10
  | _, _ => []

/-- Whether the chain replaces the s field (R139). -/
def Grp.chainAboveS (g : Grp) (i : OpInfo) : Bool :=
  decide (g.chain ≠ 0) && decide (i.fmt = .rr) && (decide (i.imm = .aboveS) || decide (i.imm = .aboveZ))

/-- Every reason that concerns the relation of the words of a group whose base word names an operation (R148). -/
def relationBad (g : Grp) (i : OpInfo) : List (Nat × Nat) :=
  let wb := g.n
  bad (decide (g.chain ≠ 0) && decide (i.imm = .no)) g.iIdx 4 ++
  bad (g.hasR && decide (i.r = .no)) g.rIdx 4 ++
  bad (g.hasM && !i.m) g.mIdx 4 ++
  bad (!g.hasR && decide (i.r = .req)) wb 12 ++
  fieldBad i.d g.sc g.d wb ++
  (if g.chainAboveS i then [] else fieldBad i.s g.sc g.s wb) ++
  (if g.hasR && decide (i.r ≠ .no) then
    (if g.page = 2 ∧ g.opc = 0x0B ∧ g.mode % 2 = 0 then bad (g.t != 0) g.rIdx 5 else fieldBad i.t g.sc g.t g.rIdx) ++
      tCodeBad g ++ modeBad g
   else []) ++
  pfxPBad g ++ (if i.m then pfxMBad g else []) ++ selBad g

/-- The first of two reasons in the order of R148: by the word's index, then by the reason. -/
def firstBad : List (Nat × Nat) → Option (Nat × Nat)
  | [] => none
  | e :: es =>
    match firstBad es with
    | none => some e
    | some e' => if e.1 < e'.1 ∨ (e.1 = e'.1 ∧ e.2 ≤ e'.2) then some e else some e'

/-! ## Building the instruction -/

/-- The register a code of 0 to 23 names. -/
def gReg (c : Nat) : Fin 24 := Fin.ofNat 24 c
def vReg (c : Nat) : Fin 8 := Fin.ofNat 8 c
def bReg (c : Nat) : Fin 16 := Fin.ofNat 16 (c - 16)

/-- The four links in code order (R135). -/
def dirOf (n : Nat) : Dir := match n with | 0 => .n | 1 => .e | 2 => .s | _ => .w

/-- An operand code of the page-0 space (R135). -/
def opnd0 (c : Nat) : Opnd :=
  if c < 24 then .g (gReg c) else if c < 28 then .q (Fin.ofNat 4 (c - 24)) else .link (dirOf (c - 28))

/-- An operand code of the vector space (R135). -/
def opnd1 (c : Nat) : Opnd :=
  if c < 8 then .v (vReg c) else if c < 16 then .k (vReg (c - 8)) else .b (bReg c)

/-- The operand code of a page-1 group's form (R179). -/
def Grp.opnd (g : Grp) (c : Nat) : Opnd := if g.page = 1 ∧ ¬ g.sc then opnd1 c else opnd0 c

/-- v, an n-bit number, sign-extended to 64 bits. -/
def sext64 (n v : Nat) : Dword :=
  if n ≠ 0 ∧ 2 ^ (n - 1) ≤ v % 2 ^ n then BitVec.ofInt 64 ((v % 2 ^ n : Nat) - (2 ^ n : Nat) : Int)
  else BitVec.ofNat 64 (v % 2 ^ n)

/-- The chain above a field f of fw bits, sign-extended or zero-extended (R139). -/
def Grp.aboveS (g : Grp) (fw f : Nat) : Dword := sext64 (10 * g.chain + fw) (g.ival * 2 ^ fw + f)
def Grp.aboveZ (g : Grp) (fw f : Nat) : Dword := BitVec.ofNat 64 (g.ival * 2 ^ fw + f)
/-- The chain alone, sign-extended or zero-extended; zero without a chain (R139). -/
def Grp.aloneS (g : Grp) : Dword := sext64 (10 * g.chain) g.ival
def Grp.aloneZ (g : Grp) : Dword := BitVec.ofNat 64 g.ival

def Grp.srcS (g : Grp) : Src := if g.chain ≠ 0 then .imm (g.aboveS 5 g.s) else .op (g.opnd g.s)
def Grp.srcZ (g : Grp) : Src := if g.chain ≠ 0 then .imm (g.aboveZ 5 g.s) else .op (g.opnd g.s)

def widthOf (n : Nat) : Width := match n with | 0 => .w64 | 1 => .w32 | 2 => .w16 | _ => .w8
def clsOf (n : Nat) : Cls := match n with | 0 => .ord | 1 => .rlx | 2 => .rlxa | _ => .rlxc
def scopeOf (n : Nat) : Scope :=
  match n with | 0 => .core | 1 => .clu | 2 => .die | 3 => .pkg | 4 => .dom | _ => .sys
/-- A rounding mode field: 0 to 4 static, 7 dynamic (R123). -/
def rmOf (n : Nat) : Option RMode :=
  match n with | 0 => some .rne | 1 => some .rtz | 2 => some .rup | 3 => some .rdn | 4 => some .rmm | _ => none
/-- The rounding mode of an optional PFX.R: dynamic without one (R140). -/
def Grp.rm (g : Grp) : Option RMode := if g.hasR then rmOf g.mode else none
def tyOf (n : Nat) : Ty :=
  match n with
  | 0 => .f64 | 1 => .f32 | 2 => .f16 | 3 => .bf16 | 4 => .e4m3 | 5 => .e5m2 | 6 => .i64 | 7 => .i32 | 8 => .i16
  | 9 => .i8 | 10 => .n32 | 11 => .n16 | 12 => .n8 | 13 => .q4x | 14 => .tri | _ => .n64
def amoOf (n : Nat) : AmoOp :=
  match n with
  | 0 => .add | 1 => .swap | 2 => .and | 3 => .or | 4 => .min | 5 => .max | 6 => .minn | _ => .maxn
def fcondOf (n : Nat) : FCond :=
  match n with | 0 => .eq | 1 => .lt | 2 => .le | 3 => .un | 4 => .ne | 5 => .ltq | 6 => .leq | _ => .or
def icondOf (n : Nat) : ICond := match n with | 0 => .eq | 1 => .ne | 2 => .lt | 3 => .le | 4 => .gt | _ => .ge
def kopOf (n : Nat) : KOp :=
  match n with | 0 => .and | 1 => .or | 2 => .xor | 3 => .andn | 4 => .not | 5 => .pop | 6 => .first | _ => .mov
def redOf (n : Nat) : RedOp := match n with | 0 => .add | 1 => .min | _ => .max

/-- The memory operand with base code b and the default scope (R142, R144). -/
def Grp.mem (g : Grp) (b : Nat) (dflt : Scope) : MemOp :=
  { base := gReg (if g.page = 1 then b - 16 else b), off := g.aloneS, cls := clsOf g.cls,
    scope := if g.hasM then scopeOf g.scope else dflt, sg := vReg g.seg }

def Grp.p1 (g : Grp) : P1 := { ty := tyOf g.ty, sc := g.sc, mask := vReg g.mask }

/-- The scope of a phase instruction (R221). -/
def Grp.phScope (g : Grp) : Scope := if g.hasM then scopeOf g.scope else .pkg

/-- Page 0 (R144). -/
def build0 (g : Grp) : Option Instr :=
  let d := opnd0 g.d
  let s := opnd0 g.s
  let rd := gReg g.d
  let rs := gReg g.s
  match g.opc with
  | 0x01 => some (.add d g.srcS) | 0x02 => some (.sub d g.srcS) | 0x03 => some (.mul d g.srcS)
  | 0x04 => some (.mulh d g.srcS) | 0x05 => some (.mulhn d g.srcS) | 0x06 => some (.div d g.srcS)
  | 0x07 => some (.divn d g.srcS) | 0x08 => some (.rem d g.srcS) | 0x09 => some (.remn d g.srcS)
  | 0x0A => some (.and d g.srcS) | 0x0B => some (.or d g.srcS) | 0x0C => some (.xor d g.srcS)
  | 0x0D => some (.andn d g.srcS) | 0x0E => some (.shl d g.srcZ) | 0x0F => some (.shr d g.srcZ)
  | 0x10 => some (.sar d g.srcZ) | 0x11 => some (.rol d g.srcZ) | 0x12 => some (.min d g.srcS)
  | 0x13 => some (.max d g.srcS) | 0x14 => some (.minn d g.srcS) | 0x15 => some (.maxn d g.srcS)
  | 0x16 => some (.clz d s) | 0x17 => some (.ctz d s) | 0x18 => some (.popc d s)
  | 0x19 => some (.ext d s (widthOf g.width) (decide (4 ≤ g.mode)))
  | 0x1A => some (.mov d s)
  | 0x1B => some (.movi d (g.aboveS 5 g.s)) | 0x1C => some (.addi d (g.aboveS 5 g.s))
  | 0x1D => some (.shli d (g.aboveZ 5 g.s)) | 0x1E => some (.shri d (g.aboveZ 5 g.s))
  | 0x1F => some (.sari d (g.aboveZ 5 g.s))
  | 0x20 => some (.seq d g.srcS) | 0x21 => some (.slt d g.srcS) | 0x22 => some (.sltn d g.srcS)
  | 0x23 => some (.csel rd s (opnd0 g.t))
  | 0x24 => some (.br (g.aboveS 10 (g.d * 32 + g.s))) | 0x25 => some (.call (g.aboveS 10 (g.d * 32 + g.s)))
  | 0x26 => some (.jr rs) | 0x27 => some (.jalr rd rs)
  | 0x28 => some (.bz rd (g.aboveS 5 g.s)) | 0x29 => some (.bnz rd (g.aboveS 5 g.s))
  | 0x2A => some (.bltz rd (g.aboveS 5 g.s)) | 0x2B => some (.bgez rd (g.aboveS 5 g.s))
  | 0x2C => some (.loop rd (g.aboveS 5 g.s))
  | 0x2D => some (.ld d (g.mem g.s .core) (widthOf g.width)) | 0x2E => some (.ldsx d (g.mem g.s .core) (widthOf g.width))
  | 0x2F => some (.st (g.mem g.d .core) s (widthOf g.width))
  | 0x30 => some (.ldfe d (g.mem g.s .core)) | 0x31 => some (.stfe (g.mem g.d .core) s)
  | 0x32 => some (.ldacq d (g.mem g.s .pkg) (widthOf g.width))
  | 0x33 => some (.strel (g.mem g.d .pkg) s (widthOf g.width))
  | 0x34 => some (.amo rd (gReg g.t) (g.mem g.s .core) (widthOf g.width) (amoOf g.mode))
  | 0x35 => some (.cas rd (gReg g.t) (g.mem g.s .core) (widthOf g.width))
  | 0x36 =>
    match g.s / 8 with
    | 0 => some (.ifence (scopeOf (g.s % 8))) | 1 => some (.fenceRel (scopeOf (g.s % 8)))
    | 2 => some (.fenceAcq (scopeOf (g.s % 8))) | _ => some (.fenceFull (scopeOf (g.s % 8)))
  | 0x37 => some (.qwait d (BitVec.ofNat 5 g.s)) | 0x38 => some (.gets d (BitVec.ofNat 5 g.s))
  | 0x39 => some (.spawn rd rs (gReg g.t)) | 0x3A => some .quit
  | 0x3B => some (.lea rd (g.mem g.s .core))
  | _ => none

/-- Page 1 (R145). -/
def build1 (g : Grp) : Option Instr :=
  let x := g.p1
  let d := g.opnd g.d
  let s := g.opnd g.s
  let t := g.opnd g.t
  let vd := vReg g.d
  let vs := vReg g.s
  let rm := g.rm
  match g.opc with
  | 0x01 => some (.fadd x d s rm) | 0x02 => some (.fsub x d s rm) | 0x03 => some (.fmul x d s rm)
  | 0x04 => some (.fdiv x d s rm) | 0x05 => some (.fsqrt x d s rm) | 0x06 => some (.fma x d s t rm)
  | 0x07 => some (.fms x d s t rm) | 0x08 => some (.fnma x d s t rm) | 0x09 => some (.fnms x d s t rm)
  | 0x0A => some (.fmin x d s) | 0x0B => some (.fmax x d s) | 0x0C => some (.fminm x d s) | 0x0D => some (.fmaxm x d s)
  | 0x0E => some (.fabs x d s) | 0x0F => some (.fneg x d s) | 0x10 => some (.fcpys x d s)
  | 0x11 => some (.fcmp x d s t (fcondOf g.mode)) | 0x12 => some (.fclass x d s)
  | 0x13 => some (.fcvt x d s (tyOf g.t) rm) | 0x14 => some (.fcvti x d s (tyOf g.t) rm)
  | 0x15 => some (.icvtf x d s (if g.hasR then tyOf g.t else .i64) rm)
  | 0x16 => some (.frnd x d s rm) | 0x17 => some (.frem x d s) | 0x18 => some (.fscalb x d s rm)
  | 0x19 => some (.flogb x d s)
  | 0x1A => some (.fget (gReg g.d) (g.mode == 1)) | 0x1B => some (.fset (gReg g.s) (g.mode == 1))
  | 0x1C => some (.qpack x vd vs (tyOf g.t) rm) | 0x1D => some (.bscl x (bReg g.d) vs (tyOf g.t))
  | 0x1E => some (.vadd x vd g.srcS) | 0x1F => some (.vsub x vd g.srcS) | 0x20 => some (.vmul x vd g.srcS)
  | 0x21 => some (.vand x vd g.srcS) | 0x22 => some (.vor x vd g.srcS) | 0x23 => some (.vxor x vd g.srcS)
  | 0x24 => some (.vshl x vd g.srcZ) | 0x25 => some (.vshr x vd g.srcZ) | 0x26 => some (.vsar x vd g.srcZ)
  | 0x27 => some (.vmin x vd g.srcS) | 0x28 => some (.vmax x vd g.srcS) | 0x29 => some (.vsadd x vd g.srcS)
  | 0x2A => some (.vcmp x (vReg (g.d - 8)) s t (icondOf g.mode)) | 0x2B => some (.vmov x vd s)
  | 0x2C => some (.vld x vd (g.mem g.s .core)) | 0x2D => some (.vst x (g.mem g.d .core) vs)
  | 0x2E => some (.vgath x vd (g.mem g.s .core)) | 0x2F => some (.vscat x (g.mem g.d .core) vs)
  | 0x30 => some (.vbcast x vd s) | 0x31 => some (.vext x (bReg g.d) vs (bReg g.t))
  | 0x32 => some (.vins x vd (bReg g.s) (bReg g.t)) | 0x33 => some (.vperm x vd s t)
  | 0x34 => some (.vslide x vd g.srcZ)
  | 0x35 => some (.vred x vd s (g.t % 2 == 1) (redOf (fld g.t 2 1)) (if g.ty < 4 then rm else some .rne))
  | 0x36 => some (.vscan x vd s (g.t % 2 == 1) (redOf (fld g.t 2 1)) (if g.ty < 4 then rm else some .rne))
  | 0x37 => some (.vdot x vd s t (g.mode == 1)) | 0x38 => some (.kop d s (kopOf g.mode))
  | 0x39 => some (.tunp x vd vs) | 0x3A => some (.tacc x vd s t) | 0x3B => some (.qunp x vd vs)
  | _ => none

/-- Page 2 (R146). -/
def build2 (g : Grp) : Option Instr :=
  let d := gReg g.d
  let s := gReg g.s
  let t := gReg g.t
  let f := g.flags
  match g.opc with
  | 0x01 => some (.copy d (vReg f)) | 0x02 => some (.copy2d d (vReg f)) | 0x03 => some (.notice d)
  | 0x04 => some (.phinit d s) | 0x05 => some (.pharr d s g.phScope) | 0x06 => some (.phwait d s g.phScope)
  | 0x07 => some (.phread d s g.phScope)
  | 0x08 => some (.mxprog s) | 0x09 => some (.mxcfg (vReg f) s) | 0x0A => some .mxgo
  | 0x0B => some (.mma (Fin.ofNat 4 f) (fld f 2 2 == 1) (if fld f 7 7 = 1 then none else some (tyOf (fld f 6 3))) d s
      (if g.mode % 2 = 1 then some t else none) g.aloneZ)
  | 0x0C => some (.mxldc (Fin.ofNat 4 f) (Fin.ofNat 3 (fld f 3 2)) s)
  | 0x0D => some (.mxstc (Fin.ofNat 4 f) (fld f 2 2 == 1) d s (tyOf g.t) g.rm)
  | 0x0E => some (.mxmask s) | 0x0F => some (.mxrcmd d) | 0x10 => some (.mxunf s) | 0x11 => some (.mxzero (Fin.ofNat 4 f))
  | 0x12 => some (.rpnew d s) | 0x13 => some (.rpcat d s) | 0x14 => some (.rpsplit d s)
  | 0x15 => some (.rpsplice d s (f % 2 == 1)) | 0x16 => some (.rplen d s) | 0x17 => some (.rpsum d s (Fin.ofNat 4 f))
  | 0x18 => some (.rpfind d s) | 0x19 => some (.rpscan d s) | 0x1A => some (.rphold d) | 0x1B => some (.rpdrop d)
  | 0x1C => some (.rpdesc d s) | 0x1D => some (.rprefr d)
  | 0x1E => some (.rand d s (f % 2 == 1)) | 0x1F => some (.accept d s)
  | 0x20 => if f % 2 = 1 then some (.spobsSet d s) else some (.spobs d s)
  | 0x21 => if f % 2 = 1 then some (.spshapeSet d s) else some (.spshape d s)
  | 0x22 => some (.topk d s) | 0x23 => some (.unmset d s) | 0x24 => some (.unmrank d s) | 0x25 => some (.unmdirty d s)
  | 0x26 => some (.unmclr d s)
  | 0x27 => some (.baddq d s (if g.hasR then t else 0)
      (match f % 4 with | 0 => .q4x | 1 => .e4m3 | _ => .e5m2) (fld f 2 2 == 1) g.rm)
  | 0x28 => some (.gwtake d s) | 0x29 => some (.brf s t) | 0x2A => some (.callf d s t)
  | _ => none

/-- Page 3 (R147). -/
def build3 (g : Grp) : Option Instr :=
  let d := gReg g.d
  let s := gReg g.s
  match g.opc with
  | 0x01 => some (.sysc (g.aboveZ 5 g.s)) | 0x02 => some (.brk (g.aboveZ 5 g.s)) | 0x03 => some (.trapret (g.s == 1))
  | 0x04 => some (.getx d (Fin.ofNat 4 g.s)) | 0x05 => some (.setth s) | 0x06 => some (.gsignal d) | 0x07 => some (.gfail d)
  | 0x08 => some (.segnar (vReg g.d) s (gReg g.t)) | 0x09 => some (.chkpt (g.aboveZ 5 g.s)) | 0x0A => some .yield
  | 0x0B => some (.wake d)
  | 0x10 => some (.prd d s) | 0x11 => some (.pwr d s) | 0x12 => some (.slotsv d s) | 0x13 => some (.slotld d s)
  | 0x14 => some (.haltat d s) | 0x15 => some (.flushtk d) | 0x16 => some (.pginv d s) | 0x17 => some (.pgresume d s)
  | 0x18 => some (.ptagset d s) | 0x19 => some (.calset d s) | 0x1A => some (.glaunch d s) | 0x1B => some (.gcancel d s)
  | 0x1C => some (.scrub d s) | 0x1D => some (.capmk d s) | 0x1E => some (.travrepl d s) | 0x1F => some .iret
  | _ => none

/-- The instruction of a legal group. -/
def build (g : Grp) : Option Instr :=
  match g.page with
  | 0 => build0 g
  | 1 => build1 g
  | 2 => build2 g
  | _ => build3 g

/-! ## Decoding -/

/-- A group that is not an instruction: the offending word, its index and the reason of R148. -/
structure DecodeError where
  word   : Half
  idx    : Nat
  reason : Nat
  deriving DecidableEq, Repr

/-- The row the base word names. GWTAKE is a reserved opcode but on a gateway core (R223). -/
def Grp.info (gateway : Bool) (g : Grp) : Option OpInfo :=
  if g.page = 2 ∧ g.opc = 0x28 ∧ ¬ gateway then none else opInfo g.page g.opc

/-- The reasons that concern the base word (R148): 6 and 7 alone for no instruction, else the relation of the words. The spec does not say
which instruction a base word names behind a PFX.P of page 0: here that of page 0, by whose row its prefixes are judged (entry 86). -/
def baseBad (gateway : Bool) (g : Grp) : List (Nat × Nat) :=
  match g.info gateway with
  | none => [(g.n, if g.opc = 0 then 6 else 7)]
  | some i => relationBad g i

/-- Decode the group at the head of ws; words past the list are past sg0's limit (R148). With the instruction comes the
number of its words. -/
def decode (gateway : Bool) (ws : List Half) : Except DecodeError (Instr × Nat) :=
  let (g, e, ok) := formGroup {} 0 ws
  let all := e ++ (if ok then baseBad gateway g else [])
  match firstBad all with
  | some (k, r) => .error { word := if r = 8 then 0 else ws.getD k 0, idx := k, reason := r }
  | none =>
    match build g with
    | some i => .ok (i, g.n + 1)
    | none => .error { word := ws.getD g.n 0, idx := g.n, reason := 7 }

/-- The words of a table row: the table numbers a prefixed row with its prefix word, the first in memory, in the high half. -/
def tableWords (nbits w : Nat) : List Half :=
  if nbits ≤ 16 then [BitVec.ofNat 16 w] else [BitVec.ofNat 16 (w / 65536), BitVec.ofNat 16 w]

/-- The instruction the decoder reads from the bits w of a table row, operand words of zeros behind it. A GWTAKE is read as
on a gateway core, the only core that has it (R223). -/
def decodeTableWord (nbits w : Nat) : Option Instr :=
  match decode true (tableWords nbits w ++ [0, 0, 0]) with
  | .ok (i, _) => some i
  | .error _ => none

/-! ## Encoding -/

def encDir : Dir → Nat | .n => 0 | .e => 1 | .s => 2 | .w => 3
/-- The code of an operand in its space (R135). -/
def encOpnd : Opnd → Nat
  | .g r => r.val
  | .q i => 24 + i.val
  | .link d => 28 + encDir d
  | .v i => i.val
  | .k i => 8 + i.val
  | .b r => 16 + r.val
def encWidth : Width → Nat | .w64 => 0 | .w32 => 1 | .w16 => 2 | .w8 => 3
def encCls : Cls → Nat | .ord => 0 | .rlx => 1 | .rlxa => 2 | .rlxc => 3
def encScope : Scope → Nat | .core => 0 | .clu => 1 | .die => 2 | .pkg => 3 | .dom => 4 | .sys => 5
def encRm : Option RMode → Nat
  | some .rne => 0 | some .rtz => 1 | some .rup => 2 | some .rdn => 3 | some .rmm => 4 | none => 7
def encTy : Ty → Nat
  | .f64 => 0 | .f32 => 1 | .f16 => 2 | .bf16 => 3 | .e4m3 => 4 | .e5m2 => 5 | .i64 => 6 | .i32 => 7 | .i16 => 8
  | .i8 => 9 | .n32 => 10 | .n16 => 11 | .n8 => 12 | .q4x => 13 | .tri => 14 | .n64 => 15
def encAmo : AmoOp → Nat
  | .add => 0 | .swap => 1 | .and => 2 | .or => 3 | .min => 4 | .max => 5 | .minn => 6 | .maxn => 7
def encFcond : FCond → Nat
  | .eq => 0 | .lt => 1 | .le => 2 | .un => 3 | .ne => 4 | .ltq => 5 | .leq => 6 | .or => 7
def encIcond : ICond → Nat | .eq => 0 | .ne => 1 | .lt => 2 | .le => 3 | .gt => 4 | .ge => 5
def encKop : KOp → Nat
  | .and => 0 | .or => 1 | .xor => 2 | .andn => 3 | .not => 4 | .pop => 5 | .first => 6 | .mov => 7
def encRed : RedOp → Nat | .add => 0 | .min => 1 | .max => 2

def half (n : Nat) : Half := BitVec.ofNat 16 n
/-- The base word (R134). -/
def baseW (opc d s : Nat) : Half := half (opc * 1024 + d * 32 + s)
/-- The four prefix words (R138). -/
def pfxI (x : Nat) : Half := half (0xF000 + x % 1024)
def pfxR (t width mode : Nat) : Half := half (0xF400 + t * 32 + width * 8 + mode)
def pfxP (page flags : Nat) : Half := half (0xF800 + page * 256 + flags)
def pfxM (cls scope seg : Nat) : Half := half (0xFC00 + cls * 256 + scope * 32 + seg * 4)

/-- n chain words of the value x, most significant first, above a field of fw bits (R139). -/
def chainWords (fw x : Nat) : Nat → List Half
  | 0 => []
  | n + 1 => pfxI (x / 2 ^ (fw + 10 * n)) :: chainWords fw x n

/-- The least chain length from lo to 4 with ok (R150). -/
def chainLen (ok : Nat → Bool) (lo : Nat) : Nat :=
  if lo ≤ 0 ∧ ok 0 then 0 else if lo ≤ 1 ∧ ok 1 then 1 else if lo ≤ 2 ∧ ok 2 then 2 else if ok 3 then 3 else 4

def chainAboveS (fw lo : Nat) (x : Dword) : List Half :=
  chainWords fw x.toNat (chainLen (fun n => fitsS (10 * n + fw) x) lo)
def chainAboveZ (fw lo : Nat) (x : Dword) : List Half :=
  chainWords fw x.toNat (chainLen (fun n => fitsZ (10 * n + fw) x) lo)
def chainAloneS (x : Dword) : List Half := if x = 0 then [] else chainWords 0 x.toNat (chainLen (fun n => fitsS (10 * n) x) 1)
def chainAloneZ (x : Dword) : List Half := if x = 0 then [] else chainWords 0 x.toNat (chainLen (fun n => fitsZ (10 * n) x) 1)

/-- An RR instruction with a source that may be an immediate. -/
def encRRs (pre : List Half) (opc : Nat) (d : Nat) : Src → List Half
  | .op o => pre ++ [baseW opc d (encOpnd o)]
  | .imm x => pre ++ chainAboveS 5 1 x ++ [baseW opc d (x.toNat % 32)]
def encRRz (pre : List Half) (opc : Nat) (d : Nat) : Src → List Half
  | .op o => pre ++ [baseW opc d (encOpnd o)]
  | .imm x => pre ++ chainAboveZ 5 1 x ++ [baseW opc d (x.toNat % 32)]

/-- PFX.M, when it is needed (R150). -/
def encM (m : MemOp) (dflt : Scope) : List Half :=
  if m.cls = .ord ∧ m.sg = 0 ∧ m.scope = dflt then [] else [pfxM (encCls m.cls) (encScope m.scope) m.sg.val]
def encW (w : Width) : List Half := if w = .w64 then [] else [pfxR 0 (encWidth w) 0]
def encMem (m : MemOp) (dflt : Scope) (r : List Half) (opc d s : Nat) : List Half :=
  encM m dflt ++ r ++ chainAloneS m.off ++ [baseW opc d s]
def encB (opc : Nat) (x : Dword) : List Half :=
  chainAboveS 10 0 x ++ [half (opc * 1024 + x.toNat % 1024)]
def encBC (opc : Nat) (r : Fin 24) (x : Dword) : List Half := chainAboveS 5 0 x ++ [baseW opc r.val (x.toNat % 32)]

def P1.word (x : P1) : Half := pfxP 1 (encTy x.ty * 16 + (if x.sc then 8 else 0) + x.mask.val)
def encRmW (rm : Option RMode) : List Half := if rm = none then [] else [pfxR 0 0 (encRm rm)]
def enc1 (x : P1) (r : List Half) (opc : Nat) (d s : Nat) : List Half := x.word :: (r ++ [baseW opc d s])
def encMem1 (x : P1) (m : MemOp) (opc d s : Nat) : List Half :=
  x.word :: (encM m .core ++ chainAloneS m.off ++ [baseW opc d s])
def enc2 (flags opc d s : Nat) : List Half := [pfxP 2 flags, baseW opc d s]
def enc3 (opc d s : Nat) : List Half := [pfxP 3 0, baseW opc d s]
def encPh (opc d s : Nat) (sc : Scope) : List Half :=
  pfxP 2 0 :: ((if sc = .pkg then [] else [pfxM 0 (encScope sc) 0]) ++ [baseW opc d s])
def encQfmt : Ty → Nat | .q4x => 0 | .e4m3 => 1 | _ => 2
def bit (b : Bool) (n : Nat) : Nat := if b then n else 0

/-- The words of a well-formed instruction; none for a step of the device. -/
def encode : Instr → List Half
  | .add d s => encRRs [] 0x01 (encOpnd d) s | .sub d s => encRRs [] 0x02 (encOpnd d) s
  | .mul d s => encRRs [] 0x03 (encOpnd d) s | .mulh d s => encRRs [] 0x04 (encOpnd d) s
  | .mulhn d s => encRRs [] 0x05 (encOpnd d) s | .div d s => encRRs [] 0x06 (encOpnd d) s
  | .divn d s => encRRs [] 0x07 (encOpnd d) s | .rem d s => encRRs [] 0x08 (encOpnd d) s
  | .remn d s => encRRs [] 0x09 (encOpnd d) s | .and d s => encRRs [] 0x0A (encOpnd d) s
  | .or d s => encRRs [] 0x0B (encOpnd d) s | .xor d s => encRRs [] 0x0C (encOpnd d) s
  | .andn d s => encRRs [] 0x0D (encOpnd d) s | .shl d s => encRRz [] 0x0E (encOpnd d) s
  | .shr d s => encRRz [] 0x0F (encOpnd d) s | .sar d s => encRRz [] 0x10 (encOpnd d) s
  | .rol d s => encRRz [] 0x11 (encOpnd d) s | .min d s => encRRs [] 0x12 (encOpnd d) s
  | .max d s => encRRs [] 0x13 (encOpnd d) s | .minn d s => encRRs [] 0x14 (encOpnd d) s
  | .maxn d s => encRRs [] 0x15 (encOpnd d) s
  | .clz d s => [baseW 0x16 (encOpnd d) (encOpnd s)] | .ctz d s => [baseW 0x17 (encOpnd d) (encOpnd s)]
  | .popc d s => [baseW 0x18 (encOpnd d) (encOpnd s)]
  | .ext d s w sg => [pfxR 0 (encWidth w) (bit sg 4), baseW 0x19 (encOpnd d) (encOpnd s)]
  | .mov d s => [baseW 0x1A (encOpnd d) (encOpnd s)]
  | .movi d x => chainAboveS 5 0 x ++ [baseW 0x1B (encOpnd d) (x.toNat % 32)]
  | .addi d x => chainAboveS 5 0 x ++ [baseW 0x1C (encOpnd d) (x.toNat % 32)]
  | .shli d x => chainAboveZ 5 0 x ++ [baseW 0x1D (encOpnd d) (x.toNat % 32)]
  | .shri d x => chainAboveZ 5 0 x ++ [baseW 0x1E (encOpnd d) (x.toNat % 32)]
  | .sari d x => chainAboveZ 5 0 x ++ [baseW 0x1F (encOpnd d) (x.toNat % 32)]
  | .seq d s => encRRs [] 0x20 (encOpnd d) s | .slt d s => encRRs [] 0x21 (encOpnd d) s
  | .sltn d s => encRRs [] 0x22 (encOpnd d) s
  | .csel d s t => [pfxR (encOpnd t) 0 0, baseW 0x23 d.val (encOpnd s)]
  | .br x => encB 0x24 x | .call x => encB 0x25 x
  | .jr s => [baseW 0x26 0 s.val] | .jalr d s => [baseW 0x27 d.val s.val]
  | .bz r x => encBC 0x28 r x | .bnz r x => encBC 0x29 r x | .bltz r x => encBC 0x2A r x | .bgez r x => encBC 0x2B r x
  | .loop r x => encBC 0x2C r x
  | .ld d m w => encMem m .core (encW w) 0x2D (encOpnd d) m.base.val
  | .ldsx d m w => encMem m .core (encW w) 0x2E (encOpnd d) m.base.val
  | .st m s w => encMem m .core (encW w) 0x2F m.base.val (encOpnd s)
  | .ldfe d m => encMem m .core [] 0x30 (encOpnd d) m.base.val
  | .stfe m s => encMem m .core [] 0x31 m.base.val (encOpnd s)
  | .ldacq d m w => encMem m .pkg (encW w) 0x32 (encOpnd d) m.base.val
  | .strel m s w => encMem m .pkg (encW w) 0x33 m.base.val (encOpnd s)
  | .amo d t m w op => encMem m .core [pfxR t.val (encWidth w) (encAmo op)] 0x34 d.val m.base.val
  | .cas d t m w => encMem m .core [pfxR t.val (encWidth w) 0] 0x35 d.val m.base.val
  | .ifence sc => [baseW 0x36 0 (encScope sc)] | .fenceRel sc => [baseW 0x36 0 (8 + encScope sc)]
  | .fenceAcq sc => [baseW 0x36 0 (16 + encScope sc)] | .fenceFull sc => [baseW 0x36 0 (24 + encScope sc)]
  | .qwait d n => [baseW 0x37 (encOpnd d) n.toNat] | .gets d n => [baseW 0x38 (encOpnd d) n.toNat]
  | .spawn d s t => [pfxR t.val 0 0, baseW 0x39 d.val s.val] | .quit => [baseW 0x3A 0 0]
  | .lea d m => encMem m .core [] 0x3B d.val m.base.val
  | .fadd x d s rm => enc1 x (encRmW rm) 0x01 (encOpnd d) (encOpnd s)
  | .fsub x d s rm => enc1 x (encRmW rm) 0x02 (encOpnd d) (encOpnd s)
  | .fmul x d s rm => enc1 x (encRmW rm) 0x03 (encOpnd d) (encOpnd s)
  | .fdiv x d s rm => enc1 x (encRmW rm) 0x04 (encOpnd d) (encOpnd s)
  | .fsqrt x d s rm => enc1 x (encRmW rm) 0x05 (encOpnd d) (encOpnd s)
  | .fma x d s t rm => enc1 x [pfxR (encOpnd t) 0 (encRm rm)] 0x06 (encOpnd d) (encOpnd s)
  | .fms x d s t rm => enc1 x [pfxR (encOpnd t) 0 (encRm rm)] 0x07 (encOpnd d) (encOpnd s)
  | .fnma x d s t rm => enc1 x [pfxR (encOpnd t) 0 (encRm rm)] 0x08 (encOpnd d) (encOpnd s)
  | .fnms x d s t rm => enc1 x [pfxR (encOpnd t) 0 (encRm rm)] 0x09 (encOpnd d) (encOpnd s)
  | .fmin x d s => enc1 x [] 0x0A (encOpnd d) (encOpnd s) | .fmax x d s => enc1 x [] 0x0B (encOpnd d) (encOpnd s)
  | .fminm x d s => enc1 x [] 0x0C (encOpnd d) (encOpnd s) | .fmaxm x d s => enc1 x [] 0x0D (encOpnd d) (encOpnd s)
  | .fabs x d s => enc1 x [] 0x0E (encOpnd d) (encOpnd s) | .fneg x d s => enc1 x [] 0x0F (encOpnd d) (encOpnd s)
  | .fcpys x d s => enc1 x [] 0x10 (encOpnd d) (encOpnd s)
  | .fcmp x d s t c => enc1 x [pfxR (encOpnd t) 0 (encFcond c)] 0x11 (encOpnd d) (encOpnd s)
  | .fclass x d s => enc1 x [] 0x12 (encOpnd d) (encOpnd s)
  | .fcvt x d s tt rm => enc1 x [pfxR (encTy tt) 0 (encRm rm)] 0x13 (encOpnd d) (encOpnd s)
  | .fcvti x d s tt rm => enc1 x [pfxR (encTy tt) 0 (encRm rm)] 0x14 (encOpnd d) (encOpnd s)
  | .icvtf x d s src rm =>
      enc1 x (if src = .i64 ∧ rm = none then [] else [pfxR (encTy src) 0 (encRm rm)]) 0x15 (encOpnd d) (encOpnd s)
  | .frnd x d s rm => enc1 x (encRmW rm) 0x16 (encOpnd d) (encOpnd s)
  | .frem x d s => enc1 x [] 0x17 (encOpnd d) (encOpnd s)
  | .fscalb x d s rm => enc1 x (encRmW rm) 0x18 (encOpnd d) (encOpnd s)
  | .flogb x d s => enc1 x [] 0x19 (encOpnd d) (encOpnd s)
  | .fget d c => [pfxP 1 8, pfxR 0 0 (bit c 1), baseW 0x1A d.val 0]
  | .fset s c => [pfxP 1 8, pfxR 0 0 (bit c 1), baseW 0x1B 0 s.val]
  | .qpack x d s tt rm => enc1 x [pfxR (encTy tt) 0 (encRm rm)] 0x1C d.val s.val
  | .bscl x d s tt => enc1 x [pfxR (encTy tt) 0 0] 0x1D (16 + d.val) s.val
  | .vadd x d s => encRRs [x.word] 0x1E d.val s | .vsub x d s => encRRs [x.word] 0x1F d.val s
  | .vmul x d s => encRRs [x.word] 0x20 d.val s | .vand x d s => encRRs [x.word] 0x21 d.val s
  | .vor x d s => encRRs [x.word] 0x22 d.val s | .vxor x d s => encRRs [x.word] 0x23 d.val s
  | .vshl x d s => encRRz [x.word] 0x24 d.val s | .vshr x d s => encRRz [x.word] 0x25 d.val s
  | .vsar x d s => encRRz [x.word] 0x26 d.val s | .vmin x d s => encRRs [x.word] 0x27 d.val s
  | .vmax x d s => encRRs [x.word] 0x28 d.val s | .vsadd x d s => encRRs [x.word] 0x29 d.val s
  | .vcmp x d s t c => enc1 x [pfxR (encOpnd t) 0 (encIcond c)] 0x2A (8 + d.val) (encOpnd s)
  | .vmov x d s => enc1 x [] 0x2B d.val (encOpnd s)
  | .vld x d m => encMem1 x m 0x2C d.val (16 + m.base.val) | .vst x m s => encMem1 x m 0x2D (16 + m.base.val) s.val
  | .vgath x d m => encMem1 x m 0x2E d.val (16 + m.base.val) | .vscat x m s => encMem1 x m 0x2F (16 + m.base.val) s.val
  | .vbcast x d s => enc1 x [] 0x30 d.val (encOpnd s)
  | .vext x d s t => enc1 x [pfxR (16 + t.val) 0 0] 0x31 (16 + d.val) s.val
  | .vins x d s t => enc1 x [pfxR (16 + t.val) 0 0] 0x32 d.val (16 + s.val)
  | .vperm x d s t => enc1 x [pfxR (encOpnd t) 0 0] 0x33 d.val (encOpnd s)
  | .vslide x d s => encRRz [x.word] 0x34 d.val s
  | .vred x d s tr op rm =>
      enc1 x [pfxR (encRed op * 2 + bit tr 1) 0 (encRm rm)] 0x35 d.val (encOpnd s)
  | .vscan x d s tr op rm =>
      enc1 x [pfxR (encRed op * 2 + bit tr 1) 0 (encRm rm)] 0x36 d.val (encOpnd s)
  | .vdot x d s t sat => enc1 x [pfxR (encOpnd t) 0 (bit sat 1)] 0x37 d.val (encOpnd s)
  | .kop d s op => [pfxP 1 0, pfxR 0 0 (encKop op), baseW 0x38 (encOpnd d) (encOpnd s)]
  | .tunp x d s => enc1 x [] 0x39 d.val s.val
  | .tacc x d s t => enc1 x [pfxR (encOpnd t) 0 0] 0x3A d.val (encOpnd s)
  | .qunp x d s => enc1 x [] 0x3B d.val s.val
  | .copy d z => enc2 z.val 0x01 d.val 0 | .copy2d d z => enc2 z.val 0x02 d.val 0 | .notice d => enc2 0 0x03 d.val 0
  | .phinit d s => enc2 0 0x04 d.val s.val
  | .pharr d s sc => encPh 0x05 d.val s.val sc | .phwait d s sc => encPh 0x06 d.val s.val sc
  | .phread d s sc => encPh 0x07 d.val s.val sc
  | .mxprog s => enc2 0 0x08 0 s.val | .mxcfg n s => enc2 n.val 0x09 0 s.val | .mxgo => enc2 0 0x0A 0 0
  | .mma acc z f d s t n =>
      pfxP 2 (acc.val + bit z 4 + (match f with | some ty => encTy ty * 8 | none => 128)) ::
        ((match t with | some r => [pfxR r.val 0 1] | none => []) ++ chainAloneZ n ++ [baseW 0x0B d.val s.val])
  | .mxldc acc tag s => enc2 (acc.val + tag.val * 4) 0x0C 0 s.val
  | .mxstc acc msk d s tt rm => [pfxP 2 (acc.val + bit msk 4), pfxR (encTy tt) 0 (encRm rm), baseW 0x0D d.val s.val]
  | .mxmask s => enc2 0 0x0E 0 s.val | .mxrcmd d => enc2 0 0x0F d.val 0 | .mxunf s => enc2 0 0x10 0 s.val
  | .mxzero acc => enc2 acc.val 0x11 0 0
  | .rpnew d s => enc2 0 0x12 d.val s.val | .rpcat d s => enc2 0 0x13 d.val s.val | .rpsplit d s => enc2 0 0x14 d.val s.val
  | .rpsplice d s keep => enc2 (bit keep 1) 0x15 d.val s.val | .rplen d s => enc2 0 0x16 d.val s.val
  | .rpsum d s n => enc2 n.val 0x17 d.val s.val | .rpfind d s => enc2 0 0x18 d.val s.val
  | .rpscan d s => enc2 0 0x19 d.val s.val | .rphold d => enc2 0 0x1A d.val 0 | .rpdrop d => enc2 0 0x1B d.val 0
  | .rpdesc d s => enc2 0 0x1C d.val s.val | .rprefr d => enc2 0 0x1D d.val 0
  | .rand d s u => enc2 (bit u 1) 0x1E d.val s.val | .accept d s => enc2 0 0x1F d.val s.val
  | .spobs d s => enc2 0 0x20 d.val s.val | .spobsSet d s => enc2 1 0x20 d.val s.val
  | .spshape d s => enc2 0 0x21 d.val s.val | .spshapeSet d s => enc2 1 0x21 d.val s.val
  | .topk d s => enc2 0 0x22 d.val s.val | .unmset d s => enc2 0 0x23 d.val s.val | .unmrank d s => enc2 0 0x24 d.val s.val
  | .unmdirty d s => enc2 0 0x25 d.val s.val | .unmclr d s => enc2 0 0x26 d.val s.val
  | .baddq d s t f keep rm =>
      pfxP 2 (encQfmt f + bit keep 4) ::
        ((if t = 0 ∧ rm = none then [] else [pfxR t.val 0 (encRm rm)]) ++ [baseW 0x27 d.val s.val])
  | .gwtake d s => enc2 0 0x28 d.val s.val
  | .brf s t => [pfxP 2 0, pfxR t.val 0 0, baseW 0x29 0 s.val]
  | .callf d s t => [pfxP 2 0, pfxR t.val 0 0, baseW 0x2A d.val s.val]
  | .sysc x => pfxP 3 0 :: (chainAboveZ 5 0 x ++ [baseW 0x01 0 (x.toNat % 32)])
  | .brk x => pfxP 3 0 :: (chainAboveZ 5 0 x ++ [baseW 0x02 0 (x.toNat % 32)])
  | .trapret skip => enc3 0x03 0 (bit skip 1) | .getx d n => enc3 0x04 d.val n.val | .setth s => enc3 0x05 0 s.val
  | .gsignal d => enc3 0x06 d.val 0 | .gfail d => enc3 0x07 d.val 0
  | .segnar sg s t => [pfxP 3 0, pfxR t.val 0 0, baseW 0x08 sg.val s.val]
  | .chkpt x => pfxP 3 0 :: (chainAboveZ 5 0 x ++ [baseW 0x09 0 (x.toNat % 32)])
  | .yield => enc3 0x0A 0 0 | .wake d => enc3 0x0B d.val 0
  | .prd d s => enc3 0x10 d.val s.val | .pwr d s => enc3 0x11 d.val s.val | .slotsv d s => enc3 0x12 d.val s.val
  | .slotld d s => enc3 0x13 d.val s.val | .haltat d s => enc3 0x14 d.val s.val | .flushtk d => enc3 0x15 d.val 0
  | .pginv d s => enc3 0x16 d.val s.val | .pgresume d s => enc3 0x17 d.val s.val | .ptagset d s => enc3 0x18 d.val s.val
  | .calset d s => enc3 0x19 d.val s.val | .glaunch d s => enc3 0x1A d.val s.val | .gcancel d s => enc3 0x1B d.val s.val
  | .scrub d s => enc3 0x1C d.val s.val | .capmk d s => enc3 0x1D d.val s.val | .travrepl d s => enc3 0x1E d.val s.val
  | .iret => enc3 0x1F 0 0
  | .slotAllocate _ | .copyStreamerRun _ _ | .copyChunkCount _ _ | .noticePull _ | .engineErrorReport _ _
  | .phwaitReread _ _ | .matrixUnitTake _ | .mxrcmdArrival _ | .matrixOpStart _ | .matrixOpComplete _
  | .ropeEngineRun _ | .engineTakeOperation _ _ _ | .engineMailboxPost _ | .travelArrival _ | .arrivalQueueLand _
  | .granaryToArrivalQueue _ | .travelCongestion _ _ | .holderAdvertise _ | .wakeArrival _ | .bankPerform _ _
  | .relaxedReply _ | .relaxedFault _ _ | .fullEmptyServe _ _ | .linkEntryArrival _ _ | .groupPlace _
  | .imageCopy _ _ | .threadStart _ _ | .threadStop _ _ | .nodeDispatch _ _ | .nodeComplete _ _ | .nodeFault _
  | .nodeRetry _ _ | .walkStep _ | .cancellingFinish _ _ | .graphAccept | .graphComplete _ | .interruptTake _
  | .intqRead | .scrplReplyWrite _ _ _ | .capkeyWrite _ _ _ | .lctWrite _ _ _ | .granwbWrite _ _
  | .granaryWriteback _ _ | .imageSeal _ _ | .tenantStop _ | .threadHalt _ _ | .debugHalt _ _ | .wlogRead _
  | .translationWalk _ _ | .pageRequestEntry _ | .pageWake _ | .miggoWrite _ _ | .migration _ | .scrubSweep _
  | .packetEject _ _ | .furlongBoundary _ | .tokenRefill _ | .lctlWrite _ _ | .linkTrained _ _ _ | .linkDown _
  | .flitReplay _ | .gwstartWrite _ _ | .gwdataRead _ | .gwdataWrite _ _ | .flowOpen _ _ _ _ | .flowClose _ _ _ _
  | .uePacketReceive _ _ | .storagePortTrain _ _ | .deviceReset | .mextWrite _ | .asignWrite _ | .attestationDone
  | .powerLimit | .thermalTrip | .registerWrite _ _ | .illegalInstruction _ _ _ | .instructionFetchFault _
  | .readBufferEviction _ _ | .inboundDma _ | .powerBelowLimit => []

end Sys2Proof
end

