-- ==== Sys2Proof/Config.lean ====
section
/-! DEFINITION. What one implementation fixes and no program can know, as constants with no body: nothing in Lean can
evaluate them or prove a value of them. Also the sizes the spec fixes for every part. -/

namespace Sys2Proof.Config

/-- Values the spec leaves open after which the machine goes on (entry 7), read at the State's counter `free`. -/
opaque freeWord : Nat → Dword

/-- Bits the spec leaves unspecified: which bytes of the chunks in flight hold the new value when a copy fails part-way (R217, entry 7),
read at the State's counter `free`. -/
opaque freeBit : Nat → Bool

/-- The relocations of the scope suffixes .lv0 to .lv7 of an image, by its address and length: the byte at which a word lies in the image,
the lowest bit of its scope field, the level. The spec gives them no place in the launch record or the image (R22, entry 30). -/
opaque scopeRelocs : (image : Dword) → (length : Nat) → List (Nat × Nat × Nat)

/-- K_p, the 256-bit key of partition p derived afresh at reset number r and never exposed (R324). -/
opaque contextKey : (r p : Nat) → List Byte

/-- Whether a SLH-DSA-SHAKE-256s signature over a message verifies under the root public key in the boot ROM (R379). -/
opaque rootSignatureOk : (message signature : List Byte) → Bool

/-- The 64-byte SHAKE256 digest of this part's device identity public key (R378). -/
opaque identityDigest : List Byte

/-- The 49,856-byte SLH-DSA-SHAKE-256f signature made with the device identity key over a message (R380). -/
opaque attestationSignature : (message : List Byte) → List Byte

/-- Number of compute cores of a package (R3). -/
def computeCores : Nat := 2048
/-- Service core n stands at index 2,048 + n (R165). -/
def serviceBase : Nat := 2048
/-- The gateway core of Ziben Link port n stands at index 2,052 + n (R165). -/
def gatewayBase : Nat := 2052
/-- Every core of the package has a number below 2,076 (R165). -/
def coreCount : Nat := 2076
/-- Bytes of one core store (R31). -/
def coreBytes : Nat := 0x80000
/-- Bytes of one cluster store (R3, R41). -/
def clusterBytes : Nat := 0x2000000
/-- Bytes of KNS memory of one package (R343). -/
def knsBytes : Nat := 0xC000000000
/-- First physical address of the register windows (R343). -/
def windowBase : Nat := 0xF00000000000
/-- Bytes of the register-window range of R343. -/
def windowBytes : Nat := 0x8000000
/-- Entries of the interrupt queue (R287). -/
def intqSize : Nat := 1024
/-- Graphs the scheduler holds, subgraphs counted (R301). -/
def graphPlaces : Nat := 1024
/-- Token capacity of a die for each 1,024 cycles (R363). -/
def tokenCap : Nat := 52428

end Sys2Proof.Config
end

