-- ==== Sys2Proof/Machine/Bits.lean ====
section
/-! DEFINITION. The named operations of the sparse stores and of bits and bytes: one canonical form, little-endian (R7). -/

namespace Sys2Proof.Machine

/-- Bits [hi:lo] of a number. -/
def bits (x hi lo : Nat) : Nat := x / 2 ^ lo % 2 ^ (hi + 1 - lo)

/-- Bit i of a number. -/
def bitAt (x i : Nat) : Bool := decide (x / 2 ^ i % 2 = 1)

/-- 1 for true. -/
def b2n (b : Bool) : Nat := if b then 1 else 0

/-- x with bits [lo + n - 1 : lo] replaced by v. -/
def putBits (x lo n v : Nat) : Nat := x - (x / 2 ^ lo % 2 ^ n) * 2 ^ lo + (v % 2 ^ n) * 2 ^ lo

/-- v, an n-bit number, read as two's complement. -/
def toSigned (n v : Nat) : Int := if 2 ^ (n - 1) ≤ v % 2 ^ n then ((v % 2 ^ n : Nat) : Int) - (2 ^ n : Nat) else (v % 2 ^ n : Nat)

/-- The n-bit two's complement of an integer. -/
def ofSigned (n : Nat) (x : Int) : Nat := (x % (2 ^ n : Nat)).toNat

/-- x rounded up to a multiple of n. -/
def roundUp (x n : Nat) : Nat := (x + n - 1) / n * n

/-- n repeated for f at 0 … n−1. -/
def tab (n : Nat) (f : Nat → α) : List α := (List.range n).map f

/-- The sum of f over 0 … n−1. -/
def sumUp : Nat → (Nat → Nat) → Nat
  | 0, _ => 0
  | n + 1, f => sumUp n f + f n

/-! ## Sparse stores -/

/-- The value at a key, `dflt` when it is unlisted. -/
def mget (dflt : α) (k : Nat) : SMap α → α
  | [] => dflt
  | e :: m => if e.1 = k then e.2 else mget dflt k m

/-- The value at a key, if it is listed. -/
def mfind (k : Nat) : SMap α → Option α
  | [] => none
  | e :: m => if e.1 = k then some e.2 else mfind k m

/-- The store without a key. -/
def mdel (k : Nat) (m : SMap α) : SMap α := m.filter (fun e => e.1 != k)

/-- Insert or replace a key, keeping the keys rising. -/
def mput (k : Nat) (v : α) : SMap α → SMap α
  | [] => [(k, v)]
  | e :: m => if k < e.1 then (k, v) :: e :: m else if k = e.1 then (k, v) :: m else e :: mput k v m

/-- Write a key in the canonical form: a value equal to the default is not listed. -/
def mset [DecidableEq α] (dflt : α) (k : Nat) (v : α) (m : SMap α) : SMap α :=
  if v = dflt then mdel k m else mput k v m

/-- The entries from lo up to, not including, hi. -/
def mslice (lo hi : Nat) (m : SMap α) : SMap α := m.filter (fun e => decide (lo ≤ e.1) && decide (e.1 < hi))

/-- The store with every key from lo up to hi at the default. -/
def mclear (lo hi : Nat) (m : SMap α) : SMap α := m.filter (fun e => !(decide (lo ≤ e.1) && decide (e.1 < hi)))

/-- The canonical form: keys strictly rising, no entry at the default. -/
def mwf [DecidableEq α] (dflt : α) : SMap α → Bool
  | [] => true
  | e :: m => decide (e.2 ≠ dflt) && m.all (fun e' => decide (e.1 < e'.1)) && mwf dflt m

/-- A store of bytes. An unlisted byte reads 0 (entry 2). -/
abbrev Memory := SMap Byte

/-- The canonical form of a byte store. -/
def Memory.wf (m : Memory) : Bool := mwf 0 m

def rdB (m : Memory) (a : Nat) : Byte := mget 0 a m
def wrB (m : Memory) (a : Nat) (b : Byte) : Memory := mset 0 a b m

/-- n bytes at a, little-endian, as a number (R7). -/
def rdLE (m : Memory) (a : Nat) : Nat → Nat
  | 0 => 0
  | n + 1 => (rdB m a).toNat + 256 * rdLE m (a + 1) n

/-- Write the low n bytes of v at a, little-endian. -/
def wrLE (m : Memory) (a v : Nat) : Nat → Memory
  | 0 => m
  | n + 1 => wrLE (wrB m a (BitVec.ofNat 8 v)) (a + 1) (v / 256) n

/-- n bytes at a. -/
def rdBytes (m : Memory) (a n : Nat) : List Byte := tab n (fun i => rdB m (a + i))

/-- Write bytes from a up. -/
def wrBytes (m : Memory) (a : Nat) : List Byte → Memory
  | [] => m
  | b :: bs => wrBytes (wrB m a b) (a + 1) bs

/-- Write the bytes of v at a whose bit of mask is set, n bytes in all. -/
def wrMasked (m : Memory) (a v mask : Nat) : Nat → Memory
  | 0 => m
  | n + 1 =>
    let m' := if mask % 2 = 1 then wrB m a (BitVec.ofNat 8 v) else m
    wrMasked m' (a + 1) (v / 256) (mask / 2) n

/-- Bytes, least significant first, as a number. -/
def leNat : List Byte → Nat
  | [] => 0
  | b :: bs => b.toNat + 256 * leNat bs

/-- The low n bytes of a number, least significant first. -/
def natLE (v : Nat) : Nat → List Byte
  | 0 => []
  | n + 1 => BitVec.ofNat 8 v :: natLE (v / 256) n

/-- The first n elements that f accepts are the list's; the least index with f, below n. -/
def findUp (n : Nat) (f : Nat → Bool) : Option Nat := (List.range n).find? f

/-- Replace the element at an index. -/
def lset (l : List α) (i : Nat) (x : α) : List α := l.set i x

/-- Remove the element at an index. -/
def ldel (l : List α) (i : Nat) : List α := l.eraseIdx i

/-- Insert x before the first element that is larger, and not twice. -/
def sinsert (x : Nat) : List Nat → List Nat
  | [] => [x]
  | y :: l => if x < y then x :: y :: l else if x = y then y :: l else y :: sinsert x l

/-- Set an entry of a fixed array. -/
def vset {n : Nat} (v : Vector α n) (i : Fin n) (x : α) : Vector α n := v.set i.val x i.isLt

end Sys2Proof.Machine
end

