-- ==== Sys2Proof/Machine/Keccak.lean ====
section
/-! DEFINITION. SHAKE256 and KMAC256 as the device computes them (R294, R324, R331, R379; FIPS 202, SP 800-185). -/

namespace Sys2Proof.Machine

/-- The Keccak state: lane (x, y) at index x + 5y. -/
abbrev Lanes := List Dword

def lan (a : Lanes) (x y : Nat) : Dword := a.getD (x % 5 + 5 * (y % 5)) 0

/-- The rotation of lane (x, y), in index order. -/
def keccakRot : List Nat :=
  [0, 1, 62, 28, 27, 36, 44, 6, 55, 20, 3, 10, 43, 25, 39, 41, 45, 15, 21, 8, 18, 2, 61, 56, 14]

/-- The round constants. -/
def keccakRc : List Dword :=
  [0x0000000000000001, 0x0000000000008082, 0x800000000000808A, 0x8000000080008000, 0x000000000000808B, 0x0000000080000001,
   0x8000000080008081, 0x8000000000008009, 0x000000000000008A, 0x0000000000000088, 0x0000000080008009, 0x000000008000000A] ++
  [0x000000008000808B, 0x800000000000008B, 0x8000000000008089, 0x8000000000008003, 0x8000000000008002, 0x8000000000000080,
   0x000000000000800A, 0x800000008000000A, 0x8000000080008081, 0x8000000000008080, 0x0000000080000001, 0x8000000080008008]

/-- One round: theta, rho and pi, chi, iota. -/
def keccakRound (a : Lanes) (rc : Dword) : Lanes :=
  let c := tab 5 (fun x => lan a x 0 ^^^ lan a x 1 ^^^ lan a x 2 ^^^ lan a x 3 ^^^ lan a x 4)
  let d := tab 5 (fun x => c.getD ((x + 4) % 5) 0 ^^^ (c.getD ((x + 1) % 5) 0).rotateLeft 1)
  let t := tab 25 (fun i => (a.getD i 0 ^^^ d.getD (i % 5) 0).rotateLeft (keccakRot.getD i 0))
  -- lane (x, y) of the next state comes from lane (x + 3y, x)
  let b := tab 25 (fun i => lan t (i % 5 + 3 * (i / 5)) (i % 5))
  let e := tab 25 (fun i => b.getD i 0 ^^^ (~~~(lan b (i % 5 + 1) (i / 5)) &&& lan b (i % 5 + 2) (i / 5)))
  match e with
  | x :: l => (x ^^^ rc) :: l
  | [] => []

def keccakF (a : Lanes) : Lanes := keccakRc.foldl keccakRound a

/-- The rate of SHAKE256 and KMAC256 in bytes. -/
def rate256 : Nat := 136

/-- Absorb one block of 136 bytes. -/
def absorb (a : Lanes) (blk : List Byte) : Lanes :=
  keccakF (tab 25 (fun i => a.getD i 0 ^^^ BitVec.ofNat 64 (leNat ((blk.drop (8 * i)).take 8))))

/-- Absorb whole blocks, at most n. -/
def absorbAll : Nat → Lanes → List Byte → Lanes
  | 0, a, _ => a
  | n + 1, a, m => if m = [] then a else absorbAll n (absorb a (m.take rate256)) (m.drop rate256)

/-- Squeeze n blocks. -/
def squeeze : Nat → Lanes → List Byte
  | 0, _ => []
  | n + 1, a => ((a.take 17).flatMap (fun l => natLE l.toNat 8)) ++ squeeze n (keccakF a)

/-- The sponge with a domain suffix, for n bytes of output. -/
def sponge (suffix : Byte) (m : List Byte) (n : Nat) : List Byte :=
  let gap := rate256 - m.length % rate256
  let pad := if gap = 1 then [suffix ||| 0x80] else suffix :: (List.replicate (gap - 2) 0 ++ [0x80])
  let full := m ++ pad
  (squeeze ((n + rate256 - 1) / rate256) (absorbAll (full.length / rate256) (List.replicate 25 0) full)).take n

/-- SHAKE256. -/
def shake256 (m : List Byte) (n : Nat) : List Byte := sponge 0x1F m n

/-- The big-endian bytes of a number, at least one. -/
def beBytes (x : Nat) : List Byte :=
  let n := max 1 ((if x = 0 then 0 else Nat.log2 x + 8) / 8)
  (natLE x n).reverse

def leftEncode (x : Nat) : List Byte := BitVec.ofNat 8 (beBytes x).length :: beBytes x
def rightEncode (x : Nat) : List Byte := beBytes x ++ [BitVec.ofNat 8 (beBytes x).length]
def encodeString (s : List Byte) : List Byte := leftEncode (8 * s.length) ++ s
def bytepad (x : List Byte) : List Byte :=
  let z := leftEncode rate256 ++ x
  z ++ List.replicate ((rate256 - z.length % rate256) % rate256) 0

/-- KMAC256 with n bytes of output and a customisation string. -/
def kmac256 (key x custom : List Byte) (n : Nat) : List Byte :=
  sponge 0x04 (bytepad (encodeString [0x4B, 0x4D, 0x41, 0x43] ++ encodeString custom) ++ bytepad (encodeString key) ++ x ++
    rightEncode (8 * n)) n

/-- The customisation strings "CAP", "CTX" and "CORE" (R294, R324, R331). -/
def customCap : List Byte := [0x43, 0x41, 0x50]
def customCtx : List Byte := [0x43, 0x54, 0x58]
def customCore : List Byte := [0x43, 0x4F, 0x52, 0x45]

/-! ## The measurement log (R378 to R380) -/

/-- An entry of the measurement log: stage id, length, digest. -/
def logEntry (stage len : Nat) (digest : List Byte) : List Byte := natLE stage 8 ++ natLE len 8 ++ digest

/-- Bytes of the configuration record with its signature. -/
def recordBytes : Nat := 30816

/-- Entries 0 and 1: the record and the first stage. -/
def bootLog (record stage : List Byte) : List (List Byte) :=
  [logEntry 0 record.length (shake256 record 64), logEntry 1 stage.length (shake256 stage 64)]

end Sys2Proof.Machine
end

