-- ==== Sys2Proof/Machine/State.lean ====
section
/-! DEFINITION. The state of a ZB-T9: every piece of state the spec gives the part, as plain data, and the state after reset
(INVENTORY.md lists each with its rule). A core key is package × 4,096 + physical index, a cluster key package × 64 + package
cluster index, a KNS byte's key package × 2^48 + physical address, a node id graph id × 4,096 + index (R301). -/

namespace Sys2Proof.Machine

/-- A step that stops the model. -/
inductive Fault where
  /-- The boot controller halted with this code and every core stays in reset; raised by a step that is not a device reset
  (R379, R381). Safe: nothing issues on such a part. -/
  | bootHalted (code : Nat)
  deriving DecidableEq, Repr

/-- An instruction without a meaning. -/
inductive Refusal where
  /-- Raised only by an arm of `exec` that has no meaning yet. Safe: no claim follows from it. -/
  | notModelled (mnemonic : String)
  deriving DecidableEq, Repr

/-- A segment register (R37). -/
structure Seg where
  space  : BitVec 4 := 0
  rights : BitVec 4 := 0
  limit  : BitVec 40 := 0
  base   : BitVec 56 := 0
  deriving DecidableEq, Repr

/-- FCTL (R122). -/
structure Fctl where
  rm   : RMode := .rne
  te   : BitVec 7 := 0
  sat8 : Bool := false
  deriving DecidableEq, Repr

/-- XSTAT but for pm, which follows the core (R167, R286). -/
structure XStat where
  resume : BitVec 19 := 0
  glen   : BitVec 3 := 0
  df     : Bool := false
  h      : Bool := false
  tr     : Bool := false
  deriving DecidableEq, Repr

/-- A page under request or hold: the die whose queue holds it, the partition, va[51:16] (R347). -/
structure PageKey where
  die  : Nat
  part : Nat
  page : Nat
  deriving DecidableEq, Repr

/-- Where a byte lies: a core store, a cluster store, global virtual memory, a frame, a register window. -/
inductive Loc where
  | core (c a : Nat)
  | clu (k a : Nat)
  | glob (va : Nat)
  | kns (pkg pa : Nat)
  | win (c a : Nat)
  /-- the space and the address field of a logical core that is not in the table (R357) -/
  | lost (sp a : Nat)
  deriving DecidableEq, Repr

/-- What one indivisible piece of an access does at its bank (R91, R104). -/
inductive POp where
  | rd
  | wr (data mask : Nat)
  | amo (op : AmoOp) (v : Nat)
  | cas (e v : Nat)
  /-- an update of a phase word: bytes and arrivals added (R109) -/
  | phase (db dn : Nat)
  deriving DecidableEq, Repr

/-- One access that an instruction or an engine's operation has made: its resolved address, its length, what it did, its answer; none
where it failed. The operation goes on after it, and makes no access twice (R91, R93, R106, entry 68). -/
structure Made where
  a   : Nat
  n   : Nat
  op  : POp
  res : Option Nat
  deriving DecidableEq, Repr

/-- What a slot polls: its next group cannot complete yet and is issued again (R65). -/
inductive Poll where
  | queue | qwait | drain | pending | yield | granary | tokens | room | hold
  /-- the accesses of the group are made one by one (R91, R197, R204) -/
  | more
  /-- PHWAIT: the word, the generation it waits to see past, the register of its result, its acquire's scope, the next group (R110) -/
  | phase (l : Loc) (expected : Nat) (d : Fin 24) (scope : Scope) (next : Dword)
  /-- LDFE (take) or STFE on a word (R112) -/
  | fullEmpty (l : Loc) (take : Bool)
  deriving DecidableEq, Repr

/-- What a slot awaits at its mailbox: an answer (R48, R60, R172, R175), or the acknowledgement of a kick (R106, R243). -/
inductive Mail where
  | spawn | engine | sysc | signal | kick
  deriving DecidableEq, Repr

/-- An instruction whose read is made and whose acquire still waits for the thread's replies (R101 to R103): the result it then
writes, the acquire's scope, the address of the group after it. -/
structure Held where
  res   : Option (Opnd × Dword)
  scope : Scope
  next  : Dword
  deriving DecidableEq, Repr

/-- Why a slot does not issue by itself (R65). -/
inductive Wait where
  | ready
  | poll (p : Poll)
  | mail (m : Mail)
  | parked (k : PageKey)
  | starting
  /-- the pieces of its ordinary access are being performed (R91, R93) -/
  | access
  /-- its read is made, its acquire waits (R102, R103) -/
  | acquire (h : Held)
  deriving DecidableEq, Repr

inductive HaltWhy where
  | tenant | checkpoint | debug
  deriving DecidableEq, Repr

/-- The control of a thread from outside (R177, R317, R329, R336). -/
inductive Ctl where
  | run
  | stopReq
  /-- SLOTSV has asked for the thread (R295) -/
  | saveReq
  | haltReq (w : HaltWhy)
  | halted (w : HaltWhy)
  deriving DecidableEq, Repr

/-- Why a thread leaves its core at the next group boundary: its first instruction lies elsewhere, a trap or TRAPRET leads
elsewhere, its core lost its segment (R85, R86, R88). -/
inductive Leave where
  | start | trap | moved
  deriving DecidableEq, Repr

/-- A deferred matrix-unit trap still to be taken (R125): the enabled flags that were raised, the issuing group, the core of the unit
with the accumulator, the phase word, the cycle of issue. -/
structure Deferred where
  flags  : BitVec 7
  xpc    : Dword
  core   : Nat
  acc    : Option (Fin 4)
  pw     : Dword
  issued : Nat
  deriving DecidableEq, Repr

/-- A relaxed fault or engine error still to be taken before the next issue (R100, R217). -/
structure Report where
  cause : Nat
  xpc   : Dword
  xval  : Dword
  deriving DecidableEq, Repr

/-- The state of a SYSC of the thread (R172, R292). -/
inductive Sysc where
  | none
  | asked
  | answered (w0 w1 : Dword)
  deriving DecidableEq, Repr

/-- Results posted for a waiting engine instruction whose thread is saved or about to read them (R48, R295). -/
structure Posted where
  res  : List (Fin 24 × Dword)
  err  : Option Dword
  /-- a failure to be reported after the results (R257) -/
  late : Option Dword := none
  /-- the results stand in the slot's mailbox; a SPAWN's reply does not (R48, R60) -/
  box  : Bool := true
  deriving DecidableEq, Repr

/-- A thread: the registers of R30 and what the device records of it. -/
structure Thread where
  g : Vector Dword 24 := Vector.replicate 24 0
  v : Vector Vec 8 := Vector.replicate 8 0
  k : Vector Dword 8 := Vector.replicate 8 0
  sg : Vector Seg 8 := Vector.replicate 8 {}
  p : Vector Dword 4 := Vector.replicate 4 0
  fflg : BitVec 7 := 0
  fctl : Fctl := {}
  xcause : BitVec 8 := 0
  xval : Dword := 0
  xpc : Dword := 0
  xstat : XStat := {}
  pc : Dword := 0
  /-- the fetch buffer: block address and 16 bytes (R105) -/
  fbuf : Option (Nat × List Byte) := none
  tid : Nat := 0
  origin : Nat := 0
  attempt : Nat := 0
  /-- the node id of R301, none for a thread of no node -/
  node : Option Nat := none
  lvIdx : List Nat := []
  lvExt : List Nat := []
  handler : Dword := 0
  wake : Bool := false
  chk : Option Nat := none
  deferred : List Deferred := []
  reports : List Report := []
  wait : Wait := .ready
  ctl : Ctl := .run
  sysc : Sysc := .none
  posted : Option Posted := none
  heldHalt : Bool := false
  heldWake : Bool := false
  /-- the cycle at which the wait for a granary place began, and whether its notice is sent (R78) -/
  gwait : Option (Nat × Bool) := none
  /-- the thread must leave its core before it issues (R85, R86, R88) -/
  leave : Option Leave := none
  /-- the page whose request was answered with poisoned data, for the access to it that is reissued (R349) -/
  poisoned : Option PageKey := none
  /-- the accesses its instruction has made, where the group waits between two of them -/
  trail : List Made := []
  /-- the model's own name of this thread's life (entry 5) -/
  uid : Nat := 0
  deriving DecidableEq, Repr

/-- A queue's binding to a node (R45). -/
structure QBind where
  node : Nat
  prod : Fin 32
  cons : Fin 32
  deriving DecidableEq, Repr

/-- A core queue: entries head first, at most 16 (R45). -/
structure Queue where
  ent  : List Dword := []
  bind : Option QBind := none
  deriving DecidableEq, Repr

/-- An incoming link queue, the entries on their way to it, and the binding of the direction (R45). -/
structure Link where
  ent  : List Dword := []
  fly  : List Dword := []
  bind : Option (Nat × Fin 32) := none
  deriving DecidableEq, Repr

/-- A node's claim on a core (R53, R57, R62). -/
structure Claim where
  node    : Nat
  attempt : Nat
  lo      : Nat
  hi      : Nat
  /-- the image is in place -/
  ready   : Bool
  /-- the image copy met this page -/
  paused  : Option PageKey := none
  poison  : Option PageKey := none
  /-- the image copy failed -/
  failed  : Bool := false
  /-- the accesses the image copy has made -/
  trail   : List Made := []
  deriving DecidableEq, Repr

/-- Who issued an operation of an engine: core, slot, life, the group's address, the partition. -/
structure Issuer where
  core : Nat
  slot : Nat
  uid  : Nat
  pc   : Dword
  tag  : Nat
  deriving DecidableEq, Repr

/-- An operation kicked into the matrix unit, with what the issuing thread supplied at issue (R232, R235, R237). -/
structure MxOp where
  ins  : Instr
  args : List Dword
  p    : List Dword
  iss  : Issuer
  rm   : RMode
  te   : BitVec 7
  sat8 : Bool
  /-- commanded by MXRCMD (R243) -/
  remote : Bool
  /-- it holds its queue entry: a compute operation from its issue, a commanded one from its arrival or as one is free (R232) -/
  entry  : Bool
  /-- the cycle of issue -/
  issued : Nat
  /-- the core-store address of the group that issued it (R233) -/
  addr   : Nat
  /-- the shadow set as taken (R232) -/
  snap : Option (Vector Dword 8 × BitVec 256 × BitVec 512) := none
  deriving DecidableEq, Repr

/-- A running compute operation: its flags, its phase word, or the value that refused it (R233). -/
structure MxRun where
  op    : MxOp
  flags : BitVec 7
  pw    : Dword
  acc   : Option (Fin 4)
  err   : Option Dword
  deriving DecidableEq, Repr

/-- An accumulator tile: 64 entries and a format tag, 0 f64, 1 f32, 2 i32 (R227). -/
structure Acc where
  c   : SMap Dword := []
  tag : Fin 3 := 0
  deriving DecidableEq, Repr

/-- The matrix unit of a core (R226 to R233). -/
structure Mx where
  shadow : Vector Dword 8 := Vector.replicate 8 0
  unf    : BitVec 256 := 0
  mask   : BitVec 512 := 0
  kicks  : List MxOp := []
  ops    : List MxOp := []
  run    : Option MxRun := none
  /-- the accesses made so far by the operation that is taken from the kick register, and by the one that starts -/
  taking   : List Made := []
  starting : List Made := []
  acc    : Vector Acc 4 := Vector.replicate 4 {}
  status : Dword := 0
  deriving DecidableEq, Repr

/-- A core of the package: a compute, service or gateway core. -/
structure Core where
  tag      : Fin 16 := 0
  quota    : Nat := 32
  halted   : Bool := false
  stoppend : Bool := false
  slots    : SMap Thread := []
  mem      : Memory := []
  /-- the 8-byte words whose full/empty bit is 1 (R32) -/
  full     : List Nat := []
  q        : Vector Queue 4 := Vector.replicate 4 {}
  lk       : Vector Link 4 := Vector.replicate 4 {}
  claims   : List Claim := []
  /-- slot n's mailbox word w at key 8n + w (R291) -/
  mbox     : SMap Dword := []
  /-- SCRPL n word 0 (R289) -/
  scrpl    : SMap Dword := []
  last     : Nat := 31
  /-- one more than the cycle in which a slot last issued (R64) -/
  issued   : SMap Nat := []
  mx       : Mx := {}
  arrq     : List Thread := []
  -- service cores (R289)
  ivec  : Dword := 0
  epc   : Dword := 0
  ien   : Bool := true
  islot : Fin 32 := 0
  lost  : Nat := 0
  -- gateway cores (R370)
  gwaddr : BitVec 19 := 0
  gwseg  : Dword := 0
  gwarg  : Vector Dword 4 := Vector.replicate 4 0
  deriving DecidableEq, Repr

inductive Stage where
  | sent
  | held (k : PageKey)
  | arrived
  | done (x : Nat)
  | failed (cause : Nat)
  deriving DecidableEq, Repr

/-- A piece of a relaxed access: n bytes at loc, its value at byte `at` of the result, the offset XVAL would hold. -/
structure Piece where
  loc   : Loc
  n     : Nat
  op    : POp
  pos   : Nat
  off   : Dword
  /-- the resolved address of the access's first byte, XVAL of a watchpoint (R315) -/
  ra    : Dword
  stage : Stage := .sent
  /-- the frame a global piece translates to, once it has left the port -/
  phys  : Option (Nat × Nat) := none
  /-- it behaves as ordinary, and every check on its way is made (R93, R99, R197) -/
  ord   : Bool := false
  deriving DecidableEq, Repr

/-- Where a reply goes (R94). -/
inductive Dest where
  | none
  /-- a load or AMO whose register a later one has taken (R207) -/
  | gone
  | g (r : Fin 24) (n : Nat) (sx : Bool)
  /-- the bits of `keep` keep their value -/
  | v (r : Fin 8) (keep : Vec)
  /-- the flags that the instruction sets when its store is performed (R204) -/
  | fflg (f : BitVec 7)
  deriving DecidableEq, Repr

/-- A relaxed access that is outstanding (R94), or an ordinary one whose pieces are performed one by one (R91, R93); a relaxed VGATH or
VSCAT may have ordinary elements too (R197). -/
structure Access where
  iss    : Issuer
  cls    : Cls
  /-- the pieces are elements of a VGATH or VSCAT, in lane order (R197) -/
  elems  : Bool := false
  dest   : Dest
  pieces : List Piece
  /-- pieces that behave as ordinary are still to be performed, and the thread waits for them: the length of its group in words -/
  ord    : Option Nat := none
  /-- the page that the instruction's next element meets: its thread parks after these (R197, R318) -/
  park   : Option PageKey := none
  /-- the fill of a read-buffer line (R98) -/
  fill   : Bool := false
  /-- what its pieces have paid for: blocks of 64 bytes, or elements of a VGATH or VSCAT by lane order (R362) -/
  paid   : List Nat := []
  /-- its failure is reported; its register stays pending until the report is taken (R211) -/
  reported : Bool := false
  /-- the cycle of its issue -/
  issued : Nat := 0
  deriving DecidableEq, Repr

/-- What a copy serves (R216, R220, R302). -/
inductive CopyFor where
  | copy | notice | node (nid attempt : Nat)
  deriving DecidableEq, Repr

/-- A chunk of a copy whose bytes move piece by piece (R91, R216): its place in the copy, the parts still to be read, the bytes read, the
parts still to be written with their place from dst, the 64-byte accesses that have paid their tokens (R362). -/
structure Chunk where
  row  : Nat
  off  : Nat
  len  : Nat
  rd   : List (Nat × Nat)
  buf  : List (Nat × Byte) := []
  wr   : List (Nat × Nat × Nat)
  paid : List (Bool × Nat) := []
  deriving DecidableEq, Repr

/-- An operation of a copy streamer or a pull of a copy engine (R216, R220, R229). -/
structure Copy where
  kind  : CopyFor
  iss   : Issuer
  /-- the cluster whose memory port it uses; for a notice the receiving cluster (entry 9) -/
  port  : Nat
  dst   : Dword
  src   : Dword
  cnt   : Nat
  pws   : List Dword
  rows  : Nat
  dstr  : Nat
  sstr  : Nat
  swz   : Nat
  /-- the bytes of a line of the tile that a swizzled copy writes (R229) -/
  line  : Nat := 0
  /-- next row and offset in it -/
  row   : Nat := 0
  off   : Nat := 0
  /-- the checks of R36 and R217 have passed -/
  checked : Bool := false
  /-- chunks whose stores are acknowledged and not yet counted: length, phase words still to be updated (R216, R220) -/
  uncounted : List (Nat × List Dword) := []
  /-- their places in the copy: row, offset -/
  flying : List (Nat × Nat) := []
  /-- chunks that move piece by piece -/
  moving : List Chunk := []
  /-- the cycle of its kick -/
  issued : Nat := 0
  /-- chunks before the next one that have not moved: of the chunks in flight, any may move first (R216, R218) -/
  skip : List (Nat × Nat × Nat) := []
  paused : Option PageKey := none
  /-- the pages whose requests were answered with poisoned data (R349) -/
  poison : List PageKey := []
  /-- a notice holds one of its partition's own entries (R219) -/
  own    : Bool := false
  /-- the package of the streamer or copy engine that took it (R216, R369) -/
  home   : Option Nat := none
  deriving DecidableEq, Repr

/-- An operation of a rope engine, unmasking engine, generation table unit or link block queue (R48). -/
structure EngOp where
  ins    : Instr
  args   : List Dword
  iss    : Issuer
  /-- the group after the one that issued it -/
  next   : Dword := 0
  /-- the accesses it has made (R106) -/
  trail  : List Made := []
  paused : Option PageKey := none
  /-- the page whose request was answered with poisoned data (R349) -/
  poison : Option PageKey := none
  deriving DecidableEq, Repr

/-- A post on its way to a slot's mailbox (R48); the rope handles it would return (R257). -/
structure Post where
  iss     : Issuer
  post    : Posted
  handles : List Dword := []
  /-- the accesses the release of the handles has made -/
  trail   : List Made := []
  /-- the release of the handles waits for this page, or has had it answered with poisoned data (R348, R349) -/
  paused  : Option PageKey := none
  poison  : Option PageKey := none
  deriving DecidableEq, Repr

/-- A descriptor binding of a rope engine: the record and its pool, as read (R247, R248, R260). -/
structure RopeDesc where
  pool  : Dword
  base  : Dword
  count : Nat
  esz   : Nat
  slots : List Dword
  deriving DecidableEq, Repr

/-- A canvas slot of an unmasking engine (R280). -/
structure Canvas where
  part : Nat
  record : List Byte
  commits : Nat := 0
  snap : Option Nat := none
  deriving DecidableEq, Repr

/-- One entry of a shape table (R276). -/
structure Shape where
  count   : Nat := 0
  depths  : Dword := 0
  parents : Dword := 0
  deriving DecidableEq, Repr

/-- An entry of a segment map, or of the travel unit's copy of it (R69, R70). -/
structure MapEntry where
  holders : List Nat
  length  : Nat
  base    : Nat
  deriving DecidableEq, Repr

/-- The travel unit's copy of a node's segment map, for one group of it: the group's cores by core index (R70, R88). -/
structure SegMap where
  node    : Nat
  attempt : Nat
  /-- the group: the place of its share or die level among the levels, and its index in it -/
  lv      : Option (Nat × Nat)
  entries : List MapEntry
  cores   : List Nat
  deriving DecidableEq, Repr

/-- A leaf in a translation buffer (R345). -/
structure TlbEntry where
  part : Nat
  big  : Bool
  page : Nat
  leaf : Nat
  deriving DecidableEq, Repr

/-- A line of a read buffer (R98). -/
structure RbLine where
  part : Nat
  line : Nat
  /-- the frame's package and line -/
  pkg  : Nat
  pline : Nat
  data : BitVec 512
  /-- 8-byte pieces of the line that are still to be read at the bank -/
  todo : List Nat := []
  /-- bytes that a thread has read at the bank since the fill: life, mask (R98) -/
  seen : List (Nat × Nat) := []
  deriving DecidableEq, Repr

/-- A context in a granary place with its descriptor (R320 to R323). -/
structure Saved where
  ctx      : Thread
  core     : Nat
  slot     : Nat
  set      : Dword
  part     : Nat
  kind     : Nat
  sealed   : Bool
  /-- the image has been written to its place -/
  written  : Bool
  /-- the cycle at which it was stored -/
  age      : Nat
  deriving DecidableEq, Repr

/-- A granary descriptor on its way to memory: its partition and place, its bytes, the page it waits for, the page answered with poisoned
data, the accesses made (R321, R348). -/
structure DescW where
  part   : Nat
  place  : Nat
  bytes  : List Byte
  paused : Option PageKey := none
  poison : Option PageKey := none
  trail  : List Made := []
  deriving DecidableEq, Repr

/-- A cluster: its store, its memory port and its engines. -/
structure Cluster where
  mem     : Memory := []
  csown   : BitVec 32 := 0
  rbuf    : List RbLine := []
  tlb     : List TlbEntry := []
  gran    : SMap Dword := []
  csave   : SMap Dword := []
  /-- granary contexts in the cache, by partition × 2^32 + place (R321) -/
  places  : SMap Saved := []
  /-- granary places reserved for departing threads: partition, place, uid (R73, R77) -/
  reserved : List (Nat × Nat × Nat) := []
  /-- GRANWB writes waiting for an image to be sealed -/
  wbReq   : List Nat := []
  /-- descriptors of the granary that are still to be written (R321) -/
  descs   : List DescW := []
  accasn  : SMap (Fin 16) := []
  accavg  : SMap (BitVec 16) := []
  /-- shape table entry e of partition p at key 16p + e -/
  shapes  : SMap Shape := []
  ropeq   : List EngOp := []
  /-- descriptor id i of partition p at key 16p + i -/
  binds   : SMap RopeDesc := []
  unmq    : List EngOp := []
  canvas  : SMap Canvas := []
  genq    : List EngOp := []
  notices : List Copy := []
  maps    : List SegMap := []
  /-- arrival-queue depths last advertised, by core key (R76) -/
  adv     : SMap Nat := []
  deriving DecidableEq, Repr

/-- A page request in a die's queue (R347). -/
structure PageReq where
  part   : Nat
  page   : Nat
  reason : Nat
  flow   : Bool
  /-- its entry is one of the partition's own 64, not one of the shared -/
  own    : Bool := true
  deriving DecidableEq, Repr

/-- A migration that has set its hold: the partition, the page's first address, the leaf's entry (package, physical address), the leaf,
the leaf it becomes, its bytes, the bytes already copied (R351). -/
structure Mig where
  part : Nat
  va   : Nat
  pkg  : Nat
  pte  : Nat
  old  : Nat
  new  : Nat
  size : Nat
  next : Nat
  deriving DecidableEq, Repr

/-- A die: its page-request queue, migration unit and token buckets. -/
structure Die where
  reqs    : SMap PageReq := []
  pending : List PageReq := []
  migva   : Dword := 0
  migdst  : Dword := 0
  migst   : Nat := 0
  migcause : Nat := 0
  migrej  : Bool := false
  /-- the migration that holds the page's stores (R351) -/
  mig     : Option Mig := none
  qosctl  : BitVec 2 := 0
  bucket  : SMap Dword := []
  blevel  : SMap Nat := []
  demand  : List Nat := []
  /-- requests that wait for tokens now, by partition, life of the issuer and name of the request (R363) -/
  waiters : List (Nat × Nat × Nat) := []
  /-- intervals of 1,024 cycles whose refill has been made (R363) -/
  refills : Nat := 0
  deriving DecidableEq, Repr

/-- A flow of a link block queue (R371, R372). -/
structure Flow where
  reg    : Dword := 0
  counts : SMap Nat := []
  ready  : List Nat := []
  deriving DecidableEq, Repr

/-- A Ziben Link port (R367, R371). -/
structure Port where
  rate    : Nat := 0
  peer    : Nat := 0
  replays : Nat := 0
  seen    : Nat := 0
  lrate   : Nat := 0
  lstate  : Nat := 0
  /-- flow f of partition p at key 16p + f -/
  flows   : SMap Flow := []
  gwq     : List EngOp := []
  deriving DecidableEq, Repr

/-- A level, a share entry and a checkpoint of a launch (R50, R327). -/
structure Level where
  scope  : Nat
  domain : Nat
  extent : Nat
  deriving DecidableEq, Repr

structure Share where
  pkg    : Nat
  die    : Nat
  weight : Nat
  deriving DecidableEq, Repr

structure ChkRange where
  w     : Bool
  start : Nat
  len   : Nat
  deriving DecidableEq, Repr

structure Chk where
  number : Nat
  ranges : List ChkRange
  deriving DecidableEq, Repr

/-- A launch record as the scheduler keeps it, with its segment and checkpoint tables (R49, R39, R328). -/
structure Launch where
  image   : Dword
  imglen  : Nat
  entry   : Nat
  levels  : List Level
  shares  : List Share
  winbytes : Nat
  claim   : Nat
  queues  : List (Option (Fin 32 × Fin 32))
  links   : List (Option (Fin 32))
  travel  : Bool
  retry   : Bool
  segs    : List Seg
  segmap  : Dword
  chk     : List Chk
  handler : Nat
  origin  : Nat
  args    : List Dword
  packet  : List Dword
  deriving DecidableEq, Repr

inductive NKind where
  | kernel | copy | signal | sub
  deriving DecidableEq, Repr

/-- The states of R303. -/
inductive NState where
  | waiting | ready | running | done | faulted | retrying | cancelling | cancelled
  deriving DecidableEq, Repr

/-- A group of a node's threads that is not yet placed: its die and, for a share or die level, the level and the value. -/
structure Group where
  die : Nat
  lv  : Option (Nat × Nat)
  deriving DecidableEq, Repr

/-- A node of a graph as the scheduler keeps it (R299). -/
structure Node where
  kind    : NKind
  need    : Nat
  tokens  : Nat := 0
  attempt : Nat := 0
  budget  : Nat
  state   : NState
  succ    : List Nat
  arg     : Dword
  launch  : Option Launch := none
  copy    : Option (Dword × Dword × Nat) := none
  /-- the graph key of a subgraph node's graph -/
  child   : Option Nat := none
  /-- the status a subgraph node's graph has posted -/
  result  : Option Nat := none
  /-- the attempt's first fault is recorded -/
  faulted : Bool := false
  /-- the next thread id a SPAWN takes -/
  nextTid : Nat := 0
  groups  : List Group := []
  /-- the lives of discarded contexts whose engine operations may still run -/
  left    : List Nat := []
  /-- order in which nodes became READY -/
  readyAt : Nat := 0
  deriving DecidableEq, Repr

/-- A graph as a submission reads it: its record's address, the record, its nodes, the graph and node that name it (R300, R301). -/
structure GRead where
  addr   : Dword
  word   : Nat
  nodes  : List Node
  parent : Option (Nat × Nat)
  deriving DecidableEq, Repr

/-- A cancellation walk: the queue and the nodes seen (R309), or the cancel of a whole graph (R311). -/
structure Walk where
  queue : List Nat
  seen  : List Nat
  whole : Bool := false
  deriving DecidableEq, Repr

/-- A graph in a place of the scheduler (R298, R301). -/
structure Graph where
  gid    : Option Nat
  part   : Nat
  record : Dword
  nodesA : Dword
  mbox   : Dword
  flist  : Dword
  flcap  : Nat
  pw     : Dword
  nodes  : List Node
  parent : Option (Nat × Nat)
  gstate : Nat
  walks  : List Walk := []
  faults : List Nat := []
  cancelled : Bool := false
  deriving DecidableEq, Repr

/-- A node fault on its way to the scheduler (R307). -/
structure NFault where
  node    : Nat
  attempt : Nat
  cause   : Nat
  fxpc    : Dword
  fval    : Dword
  fthr    : Option Nat
  deriving DecidableEq, Repr

/-- A SPAWN on its way to a slot allocator (R60). -/
structure SpawnReq where
  iss    : Issuer
  d      : Fin 24
  target : Option Nat
  entry  : Dword
  child  : Thread
  deriving DecidableEq, Repr

/-- A WAKE on its way (R178), and the wake message of a page request (R318). -/
structure WakeMsg where
  node    : Option Nat
  attempt : Nat
  tid     : Nat
  deriving DecidableEq, Repr

structure PageWakeMsg where
  uids   : List Nat
  key    : PageKey
  poison : Bool
  deriving DecidableEq, Repr

/-- A command to another core's matrix unit (R243). -/
structure RCmd where
  cap    : Dword
  target : Dword
  cmd    : Dword
  val    : Dword
  op     : MxOp
  /-- the group after the one that sent it -/
  next   : Dword := 0
  /-- the core that the sender's network interface translated the target to, if its entry was valid (R357) -/
  dest   : Option Nat := none
  deriving DecidableEq, Repr

/-- A running scrub: frames of a package, or a core's store (R364). The range reads as zero from the start (R365). -/
structure Scrub where
  arg  : Dword
  pkg  : Nat
  next : Nat
  stop : Nat
  deriving DecidableEq, Repr

/-- An armed stop of a partition, and whether its cycle has come (R296). -/
structure Stop where
  part  : Nat
  cycle : Nat
  fired : Bool
  deriving DecidableEq, Repr

/-- A partition's save set: its cores with the address and the length of their images, and its contexts by cluster and place key
(R332). -/
structure SaveSet where
  cores : List (Nat × Nat × Nat) := []
  ctxs  : List (Nat × Nat) := []
  deriving DecidableEq, Repr

/-- A context on its way to a holder, its core key and its reserved place (R73, R77). -/
structure Packet where
  ctx  : Thread
  dest : Nat
  deriving DecidableEq, Repr

/-- The packets of a partition that the routers' save buffers hold since FLUSHTK: its wakes and its commands to matrix units. Its threads
are halted and drained then, so no access, SPAWN or mailbox post of theirs is on its way (R329, R332). -/
structure RSave where
  wakes : List WakeMsg := []
  rcmds : List RCmd := []
  deriving DecidableEq, Repr

/-- A step of the scheduler, or a packet from outside, that has begun: the step, the page it waits for, if any, whether the request is
still open, whether it was answered with poisoned data, the accesses it has made, the key of the graph whose event it is (R300, R304,
R348, R349). -/
structure Waiter where
  who    : Instr
  key    : Option PageKey
  paused : Bool
  poison : Bool
  trail  : List Made := []
  graph  : Option Nat := none
  deriving DecidableEq, Repr

/-- A calendar change that waits for the hop's furlong boundary (R361). -/
structure CalPending where
  hop   : Nat
  slot  : Nat
  owner : Nat
  deriving DecidableEq, Repr

/-- The I/O die: interrupt queue, keys, page-table roots, watchpoints, debug, calendars (R287 to R290, R334, R341, R357, R359). -/
structure Io where
  intq    : List Dword := []
  held    : List Dword := []
  /-- word w of CAPKEY p at key 4p + w -/
  capkey  : SMap Dword := []
  ptroot  : SMap Dword := []
  pvcount : SMap Nat := []
  waddr   : SMap Dword := []
  wctl    : SMap (BitVec 9) := []
  dbg     : List Nat := []
  /-- WLOG of partition p, oldest first -/
  wlog    : SMap (List Dword) := []
  /-- calendar slot s of hop h at key 64h + s: 0 open, else owner tag + 1 -/
  cal     : SMap Nat := []
  calPend : List CalPending := []
  deriving DecidableEq, Repr

/-- The configuration record's fields (R378) and the boot controller (R379, R380). -/
structure Boot where
  halt    : Option Nat := none
  pkg     : Nat := 0
  domain  : Nat := 1
  routes  : SMap Nat := []
  ue      : SMap Nat := []
  storGen : Nat := 6
  storLanes : Nat := 8
  /-- the generation and the lanes of the device at the storage port's far end (R376) -/
  storFar : Nat × Nat := (6, 8)
  power   : Nat := 2600
  temp    : Nat := 105
  /-- measurement log, 80-byte entries -/
  log     : List (List Byte) := []
  logFull : Bool := false
  mdig    : Vector Dword 8 := Vector.replicate 8 0
  anonce  : Vector Dword 8 := Vector.replicate 8 0
  asign   : Dword := 0
  astat   : Nat := 0
  /-- NVMe namespace 1 as the boot controller finds it: directory readable, record (with signature), first stage, its
  signature -/
  dirOk   : Bool := true
  record  : Memory := []
  stage   : Memory := []
  stageLen : Nat := 0
  stageSig : List Byte := []
  deriving DecidableEq, Repr

/-- The group that is being issued. -/
structure Cur where
  core  : Nat := 0
  slot  : Nat := 0
  pc    : Dword := 0
  glen  : Nat := 1
  words : List Half := []
  /-- this move performs the pieces of an access one by one in later moves, not one after another at once (R91, entry 68) -/
  split : Bool := false
  /-- of the operation at hand: accesses made before, still to be answered again; accesses answered so far; whether it makes no access
  itself, whether it has made one in this step (entry 68) -/
  trail  : List Made := []
  made   : List Made := []
  replay : Bool := false
  acted  : Bool := false
  deriving DecidableEq, Repr

/-- Which agent moves: a slot of a core, or the device (entry 5). -/
inductive Move where
  | issue (core slot : Nat)
  | event (i : Instr)
  /-- the same, the pieces of its accesses performed one by one in later moves -/
  | issuePieces (core slot : Nat)
  | eventPieces (i : Instr)
  deriving DecidableEq, Repr

structure State where
  /-- the global cycle counter (R165) -/
  counter  : Nat
  cores    : SMap Core
  clusters : SMap Cluster
  dies     : SMap Die
  ports    : SMap Port
  io       : Io
  boot     : Boot
  /-- KNS memory of every package of the domain (R343) -/
  kns      : Memory
  /-- KNS words that answer with an uncorrectable error, by word key (R93, R369) -/
  bad      : List Nat
  /-- logical-core table entry n of partition p on package k at key (64p + k) × 2,048 + n (R357) -/
  lct      : SMap Dword
  graphs   : SMap Graph
  /-- GLAUNCHes that wait for a graph place are polled; node faults and ids -/
  nfaults  : List NFault
  nextGid  : Nat
  net      : List Access
  copies   : List Copy
  posts    : List Post
  spawns   : List SpawnReq
  pkts     : List Packet
  wakes    : List WakeMsg
  pageWakes : List PageWakeMsg
  rcmds    : List RCmd
  scrubs   : List Scrub
  stops    : List Stop
  sets     : SMap SaveSet
  /-- the routers' save buffers, by partition (R332) -/
  rsave    : SMap RSave
  /-- flows of the scheduler and packets from outside that wait for a page (R300, R348) -/
  waits    : List Waiter
  /-- Ultra Ethernet packets dropped and counted, by port (R374) -/
  ueDrop   : SMap Nat
  /-- the storage port's trained generation and lanes (R376) -/
  storage  : Nat × Nat
  /-- idle issue cycles are inserted (R381) -/
  idle     : Bool
  resets   : Nat
  -- the model's own fields (entries 5 and 7)
  cur      : Cur
  moves    : List Move
  nextUid  : Nat
  free     : Nat
  /-- the value a register read made by an event returned -/
  busRead  : Dword
  deriving DecidableEq, Repr

/-! ## Reset -/

/-- The default segment table of R28. -/
def defaultSegs : Vector Seg 8 :=
  #v[{ space := 0x1, rights := 0xF, limit := 0x80000, base := 0 },
     { rights := 0xF }, { rights := 0xF }, { rights := 0xF }, { rights := 0xF }, { rights := 0xF }, { rights := 0xF }, { rights := 0xF }]

/-- The first stage's thread: slot 0 of service core 0 at core-store address 0 (R379); its registers are zero and its segments
those of R28 (entry 4). -/
def bootThread : Thread := { sg := defaultSegs, uid := 0 }

/-- The record's bytes at reset: magic, package 0, one package, storage port PCIe 6.0 × 8, 2,600 W, 105 °C (entry 3). -/
def resetRecord : Memory :=
  [(0, 0x5A), (1, 0x42), (2, 0x43), (3, 0x46), (4, 0x47), (5, 0x31), (73, 1)] ++ tab 64 (fun k => (104 + k, 0x1F)) ++
    [(176, 0x86), (180, 0x28), (181, 0x0A), (184, 105)]

/-- The machine right after step 4 of R379. -/
def State.reset : State :=
  { counter := 0
    cores := [(2048, { slots := [(0, bootThread)] })]
    clusters := []
    dies := []
    ports := []
    io := {}
    boot := { record := resetRecord, log := bootLog (rdBytes resetRecord 0 recordBytes) [] }
    kns := []
    bad := []
    lct := []
    graphs := []
    nfaults := []
    nextGid := 0
    net := []
    copies := []
    posts := []
    spawns := []
    pkts := []
    wakes := []
    pageWakes := []
    rcmds := []
    scrubs := []
    stops := []
    sets := []
    rsave := []
    waits := []
    ueDrop := []
    storage := (6, 8)
    idle := false
    resets := 0
    cur := {}
    moves := []
    nextUid := 1
    free := 0
    busRead := 0 }

end Sys2Proof.Machine
end

