-- ==== Sys2Proof/Machine/Ops.lean ====
section
/-! DEFINITION. The named operations over the parts of the state: cores, slots, clusters, the interrupt queue, stopping a thread,
faulting a node; taking a trap, the return from one, and the ways an instruction ends. -/

namespace Sys2Proof.Machine

/-! ## Numbering (R3 to R6) -/

def pkgOf (c : Nat) : Nat := c / 4096
def idxOf (c : Nat) : Nat := c % 4096
def isCompute (c : Nat) : Bool := decide (idxOf c < 2048)
def isService (c : Nat) : Bool := decide (2048 ≤ idxOf c) && decide (idxOf c < 2052)
def isGateway (c : Nat) : Bool := decide (2052 ≤ idxOf c) && decide (idxOf c < 2076)
/-- The cluster key of a core; the cores of the I/O die share the port of a pseudo-cluster 32 (entry 8). -/
def cluOf (c : Nat) : Nat := pkgOf c * 64 + (if isCompute c then idxOf c / 64 else 32)
def cluPkg (k : Nat) : Nat := k / 64
def cluIdx (k : Nat) : Nat := k % 64
/-- The die key of a cluster's memory port; the I/O die's port uses die 0's page-request queue (entry 8). -/
def dieOfClu (k : Nat) : Nat := cluPkg k * 4 + (if cluIdx k < 32 then cluIdx k / 8 else 0)
def dieOf (c : Nat) : Nat := dieOfClu (cluOf c)
def ckey (pkg idx : Nat) : Nat := pkg * 4096 + idx
/-- The port of a gateway core (R6). -/
def gwPort (c : Nat) : Nat := idxOf c - 2052

/-! ## Reading and replacing parts -/

def State.core (s : State) (c : Nat) : Core := mget {} c s.cores
def State.setCore (s : State) (c : Nat) (x : Core) : State := { s with cores := mset {} c x s.cores }
def State.modCore (s : State) (c : Nat) (f : Core → Core) : State := s.setCore c (f (s.core c))
def State.thread? (s : State) (c n : Nat) : Option Thread := mfind n (s.core c).slots
/-- The thread of a slot; a thread of zeros where the slot is empty. -/
def State.thread (s : State) (c n : Nat) : Thread := (s.thread? c n).getD {}
def State.setThread (s : State) (c n : Nat) (t : Thread) : State :=
  s.modCore c (fun x => { x with slots := mput n t x.slots })
def State.modThread (s : State) (c n : Nat) (f : Thread → Thread) : State :=
  match s.thread? c n with
  | some t => s.setThread c n (f t)
  | none => s
def State.clu (s : State) (k : Nat) : Cluster := mget {} k s.clusters
def State.setClu (s : State) (k : Nat) (x : Cluster) : State := { s with clusters := mset {} k x s.clusters }
def State.modClu (s : State) (k : Nat) (f : Cluster → Cluster) : State := s.setClu k (f (s.clu k))
def State.die (s : State) (k : Nat) : Die := mget {} k s.dies
def State.setDie (s : State) (k : Nat) (x : Die) : State := { s with dies := mset {} k x s.dies }
def State.modDie (s : State) (k : Nat) (f : Die → Die) : State := s.setDie k (f (s.die k))
def State.port (s : State) (n : Nat) : Port := mget {} n s.ports
def State.setPort (s : State) (n : Nat) (x : Port) : State := { s with ports := mset {} n x s.ports }
def State.modPort (s : State) (n : Nat) (f : Port → Port) : State := s.setPort n (f (s.port n))
def State.modIo (s : State) (f : Io → Io) : State := { s with io := f s.io }
def State.modGraph (s : State) (gk : Nat) (f : Graph → Graph) : State :=
  match mfind gk s.graphs with
  | some g => { s with graphs := mput gk (f g) s.graphs }
  | none => s

/-- The thread being issued, its core and its slot. -/
def State.cth (s : State) : Thread := s.thread s.cur.core s.cur.slot
def State.setCth (s : State) (t : Thread) : State := s.setThread s.cur.core s.cur.slot t
def State.modCth (s : State) (f : Thread → Thread) : State := s.setCth (f s.cth)
def State.ctag (s : State) : Nat := (s.core s.cur.core).tag.val

/-- The issuer record of the group being issued. -/
def State.issuer (s : State) : Issuer :=
  { core := s.cur.core, slot := s.cur.slot, uid := s.cth.uid, pc := s.cur.pc, tag := s.ctag }

/-- The word of the group that is its base word. -/
def State.baseWord (s : State) : Half := s.cur.words.getD (s.cur.glen - 1) 0

/-- XVAL of an illegal-instruction trap: the word in [31:16], its index in [10:8], the reason in [7:0] (R148). -/
def illegalVal (w : Half) (idx reason : Nat) : Dword := BitVec.ofNat 64 (w.toNat * 65536 + idx % 8 * 256 + reason % 256)

/-- The illegal-instruction value that names the base word (R148). -/
def State.baseIllegal (s : State) (reason : Nat) : Dword := illegalVal s.baseWord (s.cur.glen - 1) reason

/-! ## Finding a thread by its life -/

/-- The core and slot of the thread with this uid. -/
def State.findUid (s : State) (uid : Nat) : Option (Nat × Nat) :=
  s.cores.findSome? (fun e => e.2.slots.findSome? (fun p => if p.2.uid = uid then some (e.1, p.1) else none))

/-- Apply f to the thread with this uid, wherever its context is: a slot, an arrival queue, in transit, a granary. -/
def State.modUid (s : State) (uid : Nat) (f : Thread → Thread) : State :=
  let g (t : Thread) : Thread := if t.uid = uid then f t else t
  { s with
    cores := s.cores.map (fun e => (e.1, { e.2 with slots := e.2.slots.map (fun p => (p.1, g p.2)), arrq := e.2.arrq.map g }))
    pkts := s.pkts.map (fun p => { p with ctx := g p.ctx })
    clusters := s.clusters.map (fun e => (e.1, { e.2 with places := e.2.places.map (fun p => (p.1, { p.2 with ctx := g p.2.ctx })) })) }

/-- The thread with this uid, wherever its context is. -/
def State.lookUid (s : State) (uid : Nat) : Option Thread :=
  let p (t : Thread) : Option Thread := if t.uid = uid then some t else none
  (s.cores.findSome? (fun e => (e.2.slots.findSome? (fun x => p x.2)).or (e.2.arrq.findSome? p))).or
    ((s.pkts.findSome? (fun x => p x.ctx)).or
      (s.clusters.findSome? (fun e => e.2.places.findSome? (fun x => p x.2.ctx))))

/-- Every live context: those in slots, arrival queues, in transit, in granary places. -/
def State.contexts (s : State) : List Thread :=
  s.cores.flatMap (fun e => e.2.slots.map (·.2) ++ e.2.arrq) ++ s.pkts.map (·.ctx) ++
    s.clusters.flatMap (fun e => e.2.places.map (·.2.ctx))

/-! ## The interrupt queue (R287) -/

/-- A record of a kind, a partition and a value. -/
def intRecord (kind part value : Nat) : Dword := BitVec.ofNat 64 (kind * 2 ^ 56 + part % 16 * 2 ^ 52 + value % 2 ^ 52)

/-- Post a record; a full queue holds kinds 2 and 3 at their source and drops the others, counted on every service core. -/
def State.post (s : State) (r : Dword) : State :=
  if s.io.intq.length < Config.intqSize ∧ s.io.held = [] then s.modIo (fun io => { io with intq := io.intq ++ [r] })
  else if bits r.toNat 63 56 = 2 ∨ bits r.toNat 63 56 = 3 then s.modIo (fun io => { io with held := io.held ++ [r] })
  else if s.io.intq.length < Config.intqSize then s.modIo (fun io => { io with intq := io.intq ++ [r] })
  else (List.range 4).foldl (fun s n =>
    s.modCore (ckey s.boot.pkg (2048 + n)) (fun c => { c with lost := min 65535 (c.lost + 1) })) s

def State.postRec (s : State) (kind part value : Nat) : State := s.post (intRecord kind part value)

/-- Move held records of kinds 2 and 3 into the queue as it has room. -/
def State.refillIntq (s : State) : State :=
  match s.io.held with
  | r :: rs => if s.io.intq.length < Config.intqSize
      then s.modIo (fun io => { io with intq := io.intq ++ [r], held := rs }) else s
  | [] => s

/-- A read of INTQ: the head, which it pops, or 0 (R287, R289). -/
def State.popIntq (s : State) : State × Dword :=
  match s.io.intq with
  | r :: rs => ((s.modIo (fun io => { io with intq := rs })).refillIntq, r)
  | [] => (s, 0)

/-- The slot address of R294; that of a thread on a core of the I/O die has a twelfth index bit, which R294's field of 11 bits does not
provide for: the model's choice (entry 94). -/
def slotAddr (c n : Nat) : Nat := idxOf c * 2 ^ 32 + n

/-! ## Stopping threads and faulting nodes -/

/-- The node attempt's fault goes to the graph scheduler (R307). -/
def State.faultNode (s : State) (node attempt cause : Nat) (fxpc fval : Dword) (fthr : Option Nat) : State :=
  { s with nfaults := s.nfaults ++ [{ node, attempt, cause, fxpc, fval, fthr }] }

/-- The thread of a slot stops at its boundary with a cause (R317, R168): its node faults; a gateway thread posts a kind-9 record
(R370). -/
def State.stopThread (s : State) (c n : Nat) (cause : Nat) (fxpc fval : Dword) : State :=
  let t := s.thread c n
  let s := s.modThread c n (fun t => { t with ctl := .stopReq })
  if isGateway c then
    s.postRec 9 (s.core c).tag.val
      (gwPort c * 2 ^ 47 + 1 * 2 ^ 44 + cause % 256 * 2 ^ 36 + n * 2 ^ 31 + bits fxpc.toNat 18 0)
  else match t.node with
    | some nid => s.faultNode nid t.attempt cause fxpc fval (some t.tid)
    | none => s

/-! ## Travel-mode segments (R69 to R72) -/

/-- A thread is of a map's group: its index at the share or die level is the group's (R50, R68). -/
def SegMap.ofGroup (m : SegMap) (t : Thread) : Bool :=
  match m.lv with
  | none => true
  | some (level, i) => t.lvIdx.getD level 0 == i

/-- A map is of a thread's node and attempt. -/
def SegMap.ofNode (m : SegMap) (t : Thread) : Bool := t.node == some m.node && m.attempt == t.attempt

/-- The travel unit's map of a thread's group: the one on the cluster of a core. For a thread that a SPAWN placed on another cluster the
spec does not say where it travels; the model's choice is the map on the cluster where its group was placed (R68, R70, R86, entry 84). -/
def State.segMap? (s : State) (c : Nat) (t : Thread) : Option SegMap :=
  let mine (m : SegMap) : Bool := m.ofNode t && m.ofGroup t
  match t.node with
  | none => none
  | some _ => ((s.clu (cluOf c)).maps.find? mine).or (s.clusters.findSome? (fun e => e.2.maps.find? mine))

/-- The segment a core holds in a map: its id and entry (R71). -/
def SegMap.localSeg (m : SegMap) (c : Nat) : Option (Nat × MapEntry) :=
  (List.range m.entries.length).findSome? (fun j =>
    match m.entries[j]? with
    | some e => if e.holders.any (fun h => m.cores.getD h 0 == c && decide (h < m.cores.length)) then some (j, e) else none
    | none => none)

/-- The segment that holds an address (R73). -/
def SegMap.segOf (m : SegMap) (a : Nat) : Option (Nat × MapEntry) :=
  (List.range m.entries.length).findSome? (fun j =>
    match m.entries[j]? with
    | some e => if e.base ≤ a ∧ a < e.base + e.length then some (j, e) else none
    | none => none)

/-- The segment that a core holds for the node of a thread on it, whichever of the node's groups the core is in: the thread's local
segment (R71). A core that two groups share at different indices holds that of the first map, the model's choice (entry 88). -/
def State.localSeg (s : State) (c : Nat) (t : Thread) : Option (Nat × MapEntry) :=
  (s.clu (cluOf c)).maps.findSome? (fun m => if m.ofNode t then m.localSeg c else none)

/-- The core holds segment j for the node of a thread on it. -/
def State.localId (s : State) (c : Nat) (t : Thread) (j : Nat) : Bool := (s.localSeg c t).any (fun x => x.1 == j)

/-- Whether a range of addresses lies inside the segment local to a core; true where the node has no travel mode (R72). -/
def State.inLocal (s : State) (c : Nat) (t : Thread) (a n : Nat) : Bool :=
  match s.localSeg c t with
  | some (_, e) => decide (e.base ≤ a) && decide (a + n ≤ e.base + e.length)
  | none => (s.segMap? c t).isNone

/-! ## Taking a trap (R168, R315, R316, R336) -/

/-- A debugger is attached to the partition (R334). -/
def State.attached (s : State) (p : Nat) : Bool := s.io.dbg.contains p

/-- Write XCAUSE, XVAL and XPC, and where the trap was taken, into the thread (R167). -/
def Thread.saveTrap (t : Thread) (cause : Nat) (xval xpc : Dword) (resume : Dword) (glen : Nat) (df : Bool) : Thread :=
  { t with
    xcause := BitVec.ofNat 8 cause
    xval := xval
    xpc := xpc
    xstat := { t.xstat with resume := resume.setWidth 19, glen := BitVec.ofNat 3 glen, df := df } }

/-- Take a trap in a slot at the group `pc` of `glen` words: the registers of R167 are written, then the cause goes where R315
sends it: to the handler, to the debugger, or to a stop that faults the node. A handler in no segment raises segment escape
(R85). -/
def State.takeTrap (s : State) (c n : Nat) (cause : Nat) (xval xpc pc : Dword) (glen : Nat) (df : Bool) : State :=
  let s := s.modThread c n (fun t => { (t.saveTrap cause xval xpc pc glen df) with wait := .ready, poisoned := none, trail := [] })
  let t := s.thread c n
  if cause = 6 ∨ cause = 7 then
    if t.handler = 0 ∨ t.xstat.h = true then s.stopThread c n cause xpc xval
    else
      let esc := match s.segMap? c t with
        | some m => (m.segOf t.handler.toNat).isNone
        | none => false
      if esc then
        (s.modThread c n (fun t => t.saveTrap 0x0A t.handler xpc pc glen df)).stopThread c n 0x0A xpc t.handler
      else
        s.modThread c n (fun t => { t with
          xstat := { t.xstat with h := true }, pc := t.handler, leave := if s.inLocal c t t.handler.toNat 2 then none else some .trap })
  else if (cause = 8 ∨ cause = 9) ∧ s.attached (s.core c).tag.val = true then
    s.modThread c n (fun t => { t with
      ctl := .haltReq .debug, pc := if cause = 8 then pc + BitVec.ofNat 64 (2 * glen) else pc })
  else s.stopThread c n cause xpc xval

/-! ## How an instruction ends -/

/-- An instruction that does not complete. -/
inductive Halt where
  /-- a precise trap without any effect (R10) -/
  | trap (cause : Nat) (xval : Dword)
  /-- a precise trap after the device logged something -/
  | trapIn (s : State) (cause : Nat) (xval : Dword)
  /-- flags raised, with the lanes that raised an enabled one (R12) -/
  | flags (f : BitVec 7) (lanes : Dword)
  /-- the same, after the device logged something -/
  | flagsIn (s : State) (f : BitVec 7) (lanes : Dword)
  /-- not ready: the group is issued again (R65) -/
  | wait (s : State) (p : Poll)
  /-- the slot's mailbox is awaited -/
  | mail (s : State) (m : Mail)
  /-- parked on a page (R318) -/
  | park (s : State) (k : PageKey)
  /-- deferred matrix traps are taken here, in issue order (R125) -/
  | deferred (d : Deferred) (ds : List Deferred)
  /-- the read is made, the acquire waits (R103) -/
  | acquire (s : State) (h : Held)
  /-- the pieces of the access are performed one by one (R91) -/
  | access (s : State)
  /-- the thread left the slot, or its program counter is already set -/
  | gone (s : State)

/-- The effect of an instruction: the state and, for a transfer, the target. -/
abbrev Eff := Except Halt (State × Option Dword)

/-- The address of the group after the one being issued. -/
def State.nextPc (s : State) : Dword := s.cur.pc + BitVec.ofNat 64 (2 * s.cur.glen)

/-- The instruction completed: the thread goes on at the next group or at the target. -/
def State.advance (s : State) (tgt : Option Dword) : State :=
  s.modCth (fun t => { t with pc := tgt.getD s.nextPc, wait := .ready, poisoned := none, trail := [] })

/-- Take a precise trap at the group being issued. -/
def State.trapHere (s : State) (cause : Nat) (xval : Dword) : State :=
  s.takeTrap s.cur.core s.cur.slot cause xval s.cur.pc s.cur.pc s.cur.glen false

/-- The cause of a flag trap: 0x07 when NF is among the enabled flags (R12). -/
def flagCause (f te : BitVec 7) : Nat := if (f &&& te).getLsbD 5 then 7 else 6

/-- The cause of deferred matrix traps taken together: 0x07 when NF is among their enabled flags (R12, R125). -/
def deferredCause (ds : List Deferred) : Nat := if ds.any (fun d => d.flags.getLsbD 5) then 7 else 6

/-- Take the deferred traps an instruction observes, if there are any: the first in issue order supplies XPC (R125). -/
def observeAll (ds : List Deferred) : Except Halt Unit :=
  match ds with
  | [] => .ok ()
  | d :: ds => .error (.deferred d ds)

/-- End an instruction that began in s. -/
def finish (s : State) (e : Eff) : Host.Outcome State Fault Refusal :=
  match e with
  | .ok (s', tgt) => .next (s'.advance tgt)
  | .error h =>
    match h with
    | .trap c v => .next (s.trapHere c v)
    | .trapIn s' c v => .next (s'.trapHere c v)
    | .flags f lanes =>
        let s' := s.modCth (fun t => { t with fflg := t.fflg ||| f })
        .next (s'.trapHere (flagCause f s.cth.fctl.te) lanes)
    | .flagsIn s' f lanes => .next ((s'.modCth (fun t => { t with fflg := t.fflg ||| f })).trapHere (flagCause f s.cth.fctl.te) lanes)
    | .wait s' p => .next (s'.modCth (fun t => { t with wait := .poll p }))
    | .mail s' m => .next (s'.modCth (fun t => { t with wait := .mail m }))
    | .park s' k => .next (s'.modCth (fun t => { t with wait := .parked k }))
    | .deferred d ds =>
        let s' := s.modCth (fun t => { t with deferred := t.deferred.filter (fun x => !(d :: ds).contains x) })
        .next (s'.takeTrap s.cur.core s.cur.slot (deferredCause (d :: ds)) 1 d.xpc s.cur.pc s.cur.glen true)
    | .acquire s' h => .next (s'.modCth (fun t => { t with wait := .acquire h, poisoned := none }))
    | .access s' => .next (s'.modCth (fun t => { t with wait := .access, poisoned := none, trail := [] }))
    | .gone s' => .next s'

/-- An instruction that completes and goes on. -/
def done (s : State) : Eff := .ok (s, none)

/-- The return from a trap (R170): re-execute or skip, at the address the trap saved. -/
def State.trapReturn (s : State) (skip : Bool) : Eff :=
  let t := s.cth
  if t.xstat.h = false then .error (.trap 0x01 (s.baseIllegal 10))
  else
    let r : Dword := t.xstat.resume.setWidth 64
    let tgt := if skip then r + BitVec.ofNat 64 (2 * t.xstat.glen.toNat) else r
    let out := !s.inLocal s.cur.core t tgt.toNat 2
    .ok (s.modCth (fun t => { t with xstat := { t.xstat with h := false }, leave := if out then some .trap else none }), some tgt)

/-- The return from an interrupt (R297). -/
def State.intReturn (s : State) : Eff :=
  let c := s.core s.cur.core
  if c.ien ∨ c.islot.val ≠ s.cur.slot then .error (.trap 0x01 (s.baseIllegal 10))
  else .ok (s.modCore s.cur.core (fun c => { c with ien := true }), some c.epc)

/-- Delivering an interrupt: EPC, ISTAT.ien and the program counter of the interrupt slot (R287). The spec checks no address set through
IVEC or EPC: at an odd one the model fetches the words that stand there (R131, entry 86). -/
def State.takeInterrupt (s : State) (c : Nat) : State :=
  let x := s.core c
  let n := x.islot.val
  let t := s.thread c n
  (s.modCore c (fun x => { x with epc := t.pc, ien := false })).modThread c n (fun t => { t with pc := x.ivec, wait := .ready, trail := [] })

/-! ## Outstanding work of a thread -/

/-- A thread is inside an instruction whose accesses have begun: it ends before the thread is taken or halted (R91, R102, R197). -/
def Thread.midway (t : Thread) : Bool :=
  match t.wait with
  | .access | .acquire _ | .mail .kick => true
  | .parked _ => false
  | _ => t.trail != []

/-- Every piece of an access is performed or has failed. -/
def Access.performed (a : Access) : Bool :=
  a.pieces.all (fun p => match p.stage with | .done _ => true | .failed _ => true | _ => false)

/-- Every piece of an access is performed; one that fails never is, and its reply ends the wait for it (R100, R101). -/
def Access.complete (a : Access) : Bool := a.pieces.all (fun p => match p.stage with | .done _ => true | _ => false)

def State.accesses (s : State) (uid : Nat) : List Access := s.net.filter (fun a => a.iss.uid = uid)

/-- Every relaxed access of the thread is performed (R101). -/
def State.drained (s : State) (uid : Nat) : Bool := (s.accesses uid).all Access.complete

/-- Every relaxed load and AMO of the thread has returned, one that failed too, whose cause is still to be raised (R100, R101). -/
def State.returned (s : State) (uid : Nat) : Bool := (s.accesses uid).all (fun a => decide (a.dest = .none) || a.reported)

/-- No outstanding relaxed access names this register. -/
def State.gPending (s : State) (uid : Nat) (r : Fin 24) : Bool :=
  (s.accesses uid).any (fun a => match a.dest with | .g r' _ _ => r' = r | _ => false)
def State.vPending (s : State) (uid : Nat) (r : Fin 8) : Bool :=
  (s.accesses uid).any (fun a => match a.dest with | .v r' _ => r' = r | _ => false)

/-- An engine operation the thread issued is still running: a copy or pull, a notice, a matrix operation, a remote command, a
waiting engine's operation or its post (R62). -/
def State.engineBusy (s : State) (uid : Nat) : Bool :=
  s.copies.any (fun c => c.iss.uid = uid && (match c.kind with | .node _ _ => false | _ => true)) ||
  s.clusters.any (fun e => e.2.notices.any (fun c => c.iss.uid = uid) || e.2.ropeq.any (fun o => o.iss.uid = uid) ||
    e.2.unmq.any (fun o => o.iss.uid = uid) || e.2.genq.any (fun o => o.iss.uid = uid)) ||
  s.ports.any (fun e => e.2.gwq.any (fun o => o.iss.uid = uid)) ||
  s.cores.any (fun e => e.2.mx.kicks.any (fun o => o.iss.uid = uid) || e.2.mx.ops.any (fun o => o.iss.uid = uid) ||
    (match e.2.mx.run with | some r => r.op.iss.uid = uid | none => false)) ||
  s.rcmds.any (fun r => r.op.iss.uid = uid) || s.posts.any (fun p => p.iss.uid = uid)

/-- The release at system scope: wait until every relaxed access of the thread is performed (R101, R103). -/
def State.release (s : State) : Except Halt Unit :=
  if s.drained s.cth.uid then .ok () else .error (.wait s .drain)

/-- Drop the read buffers an acquire of a scope by a thread of core c invalidates (R101). -/
def State.invalidateAt (s : State) (c : Nat) (sc : Scope) : State :=
  let k := cluOf c
  let drop (p : Nat → Bool) : State :=
    { s with clusters := s.clusters.filterMap (fun e =>
        let x := if p e.1 then { e.2 with rbuf := [] } else e.2
        if x = {} then none else some (e.1, x)) }
  match sc with
  | .core => s
  | .clu => drop (fun e => e = k)
  | .die => drop (fun e => cluPkg e = cluPkg k && cluIdx e / 8 = cluIdx k / 8)
  | .pkg => drop (fun e => cluPkg e = cluPkg k)
  | .dom | .sys => drop (fun _ => true)

/-- The acquire of a scope by the thread at hand drops the read buffers. -/
def State.invalidate (s : State) (sc : Scope) : State := s.invalidateAt s.cur.core sc

/-- An instruction that ends with an acquire of a scope after its read: the result is written once the thread's replies are there
(R102, R103). -/
def State.thenAcquire (s : State) (sc : Scope) (res : Option (Opnd × Dword)) (write : State → Except Halt State) : Eff :=
  if s.returned s.cth.uid then (write s).map (fun s => (s.invalidate sc, none))
  else .error (.acquire s { res := res, scope := sc, next := s.nextPc })

/-- An acquire of a scope: wait for the thread's replies, then drop the read buffers (R101). -/
def State.acquire (s : State) (sc : Scope) : Except Halt State :=
  if s.returned s.cth.uid then .ok (s.invalidate sc) else .error (.wait s .drain)

/-- The next free value (entry 7). -/
def State.freeW (s : State) : Dword × State := (Config.freeWord s.free, { s with free := s.free + 1 })
def State.freeB (s : State) : Bool × State := (Config.freeBit s.free, { s with free := s.free + 1 })

/-! ## The meaning of an event that is not enabled -/

/-- A step of the device that cannot happen now changes nothing (entry 5). -/
def event (s : State) (r : Option State) : Host.Outcome State Fault Refusal := .next (r.getD s)

end Sys2Proof.Machine
end

