-- ==== Sys2Proof/Machine/Operands.lean ====
section
/-! DEFINITION. Every operand form: g registers, queues and links of the page-0 space, v, k and broadcast registers of the vector
space, masks and lanes, and the sources that a chain replaces (R45, R46, R135, R152, R153, R179). -/

namespace Sys2Proof.Machine

/-- The direction an entry pushed toward d arrives from at the neighbour. -/
def oppDir : Dir → Dir | .n => .s | .s => .n | .e => .w | .w => .e

/-- The neighbour of a compute core on its cluster's torus: north is y − 1, east x + 1, modulo 8 (R4, R40). -/
def neighbour (c : Nat) (d : Dir) : Option Nat :=
  if isCompute c then
    let b := c / 64 * 64
    let x := c % 8
    let y := c / 8 % 8
    let r := match d with
      | .n => (x, (y + 7) % 8)
      | .e => ((x + 1) % 8, y)
      | .s => (x, (y + 1) % 8)
      | .w => ((x + 7) % 8, y)
    some (b + r.2 * 8 + r.1)
  else none

def dirIdx (d : Dir) : Fin 4 := match d with | .n => 0 | .e => 1 | .s => 2 | .w => 3
def Core.link (c : Core) (d : Dir) : Link := c.lk[(dirIdx d).val]
def Core.setLink (c : Core) (d : Dir) (l : Link) : Core := { c with lk := vset c.lk (dirIdx d) l }
def Core.queue (c : Core) (i : Fin 4) : Queue := c.q[i.val]
def Core.setQueue (c : Core) (i : Fin 4) (x : Queue) : Core := { c with q := vset c.q i x }

/-- Unbound: XVAL holds the operand's code (R45). -/
def unbound (o : Opnd) : Halt := .trap 0x10 (BitVec.ofNat 64 (encOpnd o))

/-- The binding of a queue to the thread's slot and node, as (producer, consumer). -/
def queueRoles (s : State) (i : Fin 4) : Bool × Bool :=
  let t := s.cth
  match ((s.core s.cur.core).queue i).bind with
  | some b => if t.node = some b.node then (decide (b.prod.val = s.cur.slot), decide (b.cons.val = s.cur.slot)) else (false, false)
  | none => (false, false)

/-- The link direction is bound to the thread's slot and node, and the neighbour is of the same partition (R45). -/
def linkBound (s : State) (d : Dir) : Bool :=
  let t := s.cth
  let bound := match ((s.core s.cur.core).link d).bind with
    | some (nid, n) => t.node = some nid && decide (n.val = s.cur.slot)
    | none => false
  bound && (match neighbour s.cur.core d with
    | some c => (s.core c).tag == (s.core s.cur.core).tag
    | none => false)

/-- Take the head of a queue (R45, R46). -/
def popQueue (s : State) (i : Fin 4) : Except Halt (Dword × State) :=
  if (queueRoles s i).2 = false then .error (unbound (.q i))
  else
    let x := (s.core s.cur.core).queue i
    match x.ent with
    | [] => .error (.wait s .queue)
    | e :: es => .ok (e, s.modCore s.cur.core (fun c => c.setQueue i { x with ent := es }))

/-- Take the head of the incoming queue of a link (R45, R46). -/
def popLink (s : State) (d : Dir) : Except Halt (Dword × State) :=
  if linkBound s d = false then .error (unbound (.link d))
  else
    let x := (s.core s.cur.core).link d
    match x.ent with
    | [] => .error (.wait s .queue)
    | e :: es => .ok (e, s.modCore s.cur.core (fun c => c.setLink d { x with ent := es }))

/-- Put an entry at the tail of a queue of 16 (R45, R46). -/
def pushQueue (s : State) (i : Fin 4) (v : Dword) : Except Halt State :=
  if (queueRoles s i).1 = false then .error (unbound (.q i))
  else
    let x := (s.core s.cur.core).queue i
    if 16 ≤ x.ent.length then .error (.wait s .queue)
    else .ok (s.modCore s.cur.core (fun c => c.setQueue i { x with ent := x.ent ++ [v] }))

/-- Send an entry to the neighbour's incoming queue of 8; the neighbour must hold a claim of the node (R45). -/
def pushLink (s : State) (d : Dir) (v : Dword) : Except Halt State :=
  if linkBound s d = false then .error (unbound (.link d))
  else
    match neighbour s.cur.core d with
    | none => .error (unbound (.link d))
    | some c =>
      let x := (s.core c).link (oppDir d)
      let claimed := (s.core c).claims.any (fun k => s.cth.node = some k.node && k.ready)
      if claimed = false ∨ 8 ≤ x.ent.length + x.fly.length then .error (.wait s .queue)
      else .ok (s.modCore c (fun k => k.setLink (oppDir d) { x with fly := x.fly ++ [v] }))

/-- Read a g register; a pending one makes the thread wait (R94). -/
def readG (s : State) (r : Fin 24) : Except Halt Dword :=
  if s.gPending s.cth.uid r then .error (.wait s .pending) else .ok (s.cth.g[r.val])

/-- Read an operand of the page-0 space: a queue or link pops (R46, R152). -/
def readO (s : State) (o : Opnd) : Except Halt (Dword × State) :=
  match o with
  | .g r => (readG s r).map (fun x => (x, s))
  | .q i => popQueue s i
  | .link d => popLink s d
  | .b r => (readG s (Fin.castLE (by decide) r)).map (fun x => (x, s))
  | .k i => .ok (s.cth.k[i.val], s)
  | .v i => .ok ((s.cth.v[i.val]).setWidth 64, s)

/-- Write a g register of the thread. -/
def writeG (s : State) (r : Fin 24) (x : Dword) : State := s.modCth (fun t => { t with g := vset t.g r x })
def writeV (s : State) (r : Fin 8) (x : Vec) : State := s.modCth (fun t => { t with v := vset t.v r x })
def writeK (s : State) (r : Fin 8) (x : Dword) : State := s.modCth (fun t => { t with k := vset t.k r x })

/-- Write a result to an operand of the page-0 space: a queue or link pushes (R153). -/
def writeO (s : State) (o : Opnd) (x : Dword) : Except Halt State :=
  match o with
  | .g r => .ok (writeG s r x)
  | .q i => pushQueue s i x
  | .link d => pushLink s d x
  | .b r => .ok (writeG s (Fin.castLE (by decide) r) x)
  | .k i => .ok (writeK s i x)
  | .v i => .ok (writeV s i (x.setWidth 512))

/-- A source that a chain may replace (R152). -/
def readS (s : State) (o : Src) : Except Halt (Dword × State) :=
  match o with
  | .op o => readO s o
  | .imm x => .ok (x, s)

/-- All pops and the push are made together, at completion: a wait leaves every queue and link as it was (R46). -/
def atomically (s : State) (e : Except Halt α) : Except Halt α :=
  match e with
  | .error (.wait _ p) => .error (.wait s p)
  | e => e

/-- Read n registers of a group from r (R136). -/
def readGroup (s : State) (r : Fin 24) (n : Nat) : Except Halt (List Dword) :=
  (List.range n).mapM (fun i => readG s (Fin.ofNat 24 (r.val + i)))

/-- Write results to a group of registers from r together. -/
def writeGroup (s : State) (r : Fin 24) (xs : List Dword) : State :=
  ((List.range xs.length).zip xs).foldl (fun s e => writeG s (Fin.ofNat 24 (r.val + e.1)) e.2) s

/-! ## Lanes (R137, R179, R180) -/

/-- The element width of a type; the packed types have no lanes of their own. -/
def tyWidth : Ty → Nat
  | .f64 | .i64 | .n64 => 64
  | .f32 | .i32 | .n32 => 32
  | .f16 | .bf16 | .i16 | .n16 => 16
  | .e4m3 | .e5m2 | .i8 | .n8 | .q4x | .tri => 8

/-- Lanes of 512 bits. -/
def tyLanes (t : Ty) : Nat := 512 / tyWidth t

/-- A signed integer type. -/
def tySigned : Ty → Bool
  | .i64 | .i32 | .i16 | .i8 => true
  | _ => false

/-- Lane i of width w of a vector register. -/
def lane (w : Nat) (v : Vec) (i : Nat) : Nat := v.toNat / 2 ^ (w * i) % 2 ^ w

/-- The vector with lane i of width w replaced. -/
def setLane (w : Nat) (v : Vec) (i x : Nat) : Vec :=
  (v &&& ~~~((BitVec.ofNat 512 (2 ^ w - 1)) <<< (w * i))) ||| (BitVec.ofNat 512 (x % 2 ^ w) <<< (w * i))

/-- A mask field: k0 reads all ones (R30). -/
def maskBits (s : State) (m : Fin 8) : Dword := if m = 0 then BitVec.allOnes 64 else s.cth.k[m.val]

/-- Lane i takes part under a mask field (R180). -/
def active (m : Dword) (i : Nat) : Bool := m.getLsbD i

/-- Read a v register; one with a relaxed load outstanding makes the thread wait (R94, R196). -/
def readV (s : State) (i : Fin 8) : Except Halt Vec :=
  if s.vPending s.cth.uid i then .error (.wait s .pending) else .ok (s.cth.v[i.val])

/-- Every lane of width w holding x. -/
def bcast (w : Nat) (x : Nat) : Vec :=
  (List.range (512 / w)).foldl (fun v i => v ||| (BitVec.ofNat 512 (x % 2 ^ w) <<< (w * i))) 0

/-- A lanewise vector source: a v register, or a g register broadcast to every lane (R135). -/
def readLanes (s : State) (w : Nat) (o : Opnd) : Except Halt Vec :=
  match o with
  | .v i => readV s i
  | .b r => (readG s (Fin.castLE (by decide) r)).map (fun x => bcast w x.toNat)
  | .g r => (readG s r).map (fun x => bcast w x.toNat)
  | .k i => .ok ((s.cth.k[i.val]).setWidth 512)
  | .q _ | .link _ => .ok 0

/-- A lanewise source with a chain above s: the immediate cut to w bits for each lane (R145, R190). -/
def readLanesS (s : State) (w : Nat) (o : Src) : Except Halt Vec :=
  match o with
  | .op o => readLanes s w o
  | .imm x => .ok (bcast w x.toNat)

/-- The lanes of d computed by f where active, the others kept. -/
def mergeLanes (w n : Nat) (m : Dword) (d : Vec) (f : Nat → Nat) : Vec :=
  (List.range n).foldl (fun v i => if active m i then setLane w v i (f i) else v) d

/-- A w-bit result written as 64 bits in the scalar form: signed integers sign-extended, all else zero-extended (R179). -/
def scalarResult (sg : Bool) (w x : Nat) : Dword := if sg then BitVec.ofInt 64 (toSigned w x) else BitVec.ofNat 64 (x % 2 ^ w)

end Sys2Proof.Machine
end

