-- ==== Sys2Proof/Machine/Mem.lean ====
section
/-! DEFINITION. Memory: segments and resolved addresses (R34 to R39), the ejection check (R354 to R358), translation and page
requests (R341 to R349), tokens (R362), watchpoints (R335), the banks (R90 to R92), ordinary and relaxed accesses (R93 to R100). -/

namespace Sys2Proof.Machine

/-! ## Logical cores and violations -/

/-- The key of an entry of a logical-core table (R357). -/
def lctKey (p pkg n : Nat) : Nat := (64 * p + pkg) * 2048 + n

/-- The core a logical core number of a partition names on a package, if its entry is valid (R357). -/
def State.lcore (s : State) (p pkg n : Nat) : Option Nat :=
  let e := (mget 0 (lctKey p pkg n) s.lct).toNat
  if bitAt e 63 then some (ckey pkg (bits e 10 0)) else none

/-- Drop a packet of a tag: count it and post a kind-6 record (R356). -/
def State.violate (s : State) (tag place owner core off : Nat) : State :=
  let s := s.modIo (fun io => { io with pvcount := mset 0 tag (min (2 ^ 64 - 1) (mget 0 tag io.pvcount + 1)) io.pvcount })
  s.postRec 6 tag (place * 2 ^ 50 + owner % 16 * 2 ^ 46 + core % 2048 * 2 ^ 35 + off % 2 ^ 25)

/-- The packages of the domain are reached while the link of the fixed route is up (R368, R369). -/
def State.linked (s : State) (pkg : Nat) : Bool :=
  pkg == s.boot.pkg ||
    (let r := mget 31 pkg s.boot.routes
     decide (r < 24) && decide ((s.port r).lstate = 2))

/-- A package reaches another: a link of this one, the domain's own links else (R368, R369). -/
def State.linkedFrom (s : State) (a b : Nat) : Bool :=
  a == b || (if a = s.boot.pkg then s.linked b else if b = s.boot.pkg then s.linked a else true)

def locPkg : Loc → Option Nat
  | .core c _ | .win c _ => some (pkgOf c)
  | .clu k _ => some (cluPkg k)
  | .glob _ | .lost _ _ => none
  | .kns pkg _ => some pkg

/-- The owner of a destination of n bytes that differs from the tag: place, owner, core and offset of R356 (R355). Bytes on both
sides of a region's end have two owners. -/
def State.ejects (s : State) (tag : Nat) (l : Loc) (n : Nat) : Option (Nat × Nat × Nat × Nat) :=
  if tag = 0 then none
  else match l with
    | .core c a => let o := (s.core c).tag.val; if o = tag then none else some (0, o, idxOf c, a)
    | .win c a => let o := (s.core c).tag.val; if o = tag then none else some (2, o, idxOf c, a)
    | .clu k a =>
        let owner (x : Nat) : Nat := bits (s.clu k).csown.toNat (4 * (x / 0x400000) + 3) (4 * (x / 0x400000))
        let z := a + n - 1
        if owner a ≠ tag then some (1, owner a, cluIdx k, a)
        else if owner z ≠ tag then some (1, owner z, cluIdx k, z / 0x400000 * 0x400000)
        else none
    | .glob _ | .kns _ _ | .lost _ _ => none

/-! ## Translation (R341 to R346) -/

def knsKey (pkg pa : Nat) : Nat := pkg * 2 ^ 48 + pa

/-- Who makes an access: a thread of a core, or an engine; the cluster whose port it uses; the partition; the writer kind of
R335. -/
structure Req where
  core : Nat
  port : Nat
  tag  : Nat
  thr  : Bool
  kind : Nat
  unit : Nat
  /-- the life of the thread that makes it or kicked it -/
  uid  : Nat
  /-- the pages on which the flow receives poisoned data (R349) -/
  poison : List PageKey := []
  /-- the rights its page must give, where they are not those of R38 (R279) -/
  rights : Option Nat := none
  /-- a later piece of an access: its tokens are paid and its watchpoint is logged (R335, R362) -/
  again  : Bool := false
  /-- a later piece that is reissued after a page wake: it pays again (R362) -/
  repay  : Bool := false
  /-- the name of the request among those of its life (R363) -/
  id     : Nat := 0
  /-- an invalid or malformed page fails the access, and is not requested (R57, R300) -/
  hard   : Bool := false
  /-- the package it comes from, where it is not this one (R369) -/
  home   : Option Nat := none
  deriving DecidableEq, Repr

/-- A page-table entry's fields (R342). -/
def pteValid (x : Nat) : Bool := bitAt x 0
def pteResident (x : Nat) : Bool := bitAt x 1
def pteStrong (x : Nat) : Bool := bitAt x 6
def ptePoison (x : Nat) : Bool := bitAt x 7
def pteLeaf (x : Nat) : Bool := bitAt x 8
def pteAddr (x : Nat) : Nat := bits x 47 12 * 4096
def ptePkg (x : Nat) : Nat := bits x 63 58
/-- rights R, W, X, A in bits 3 to 0, as in a resolved address (R34, R342). -/
def pteRights (x : Nat) : Nat := bits x 5 2

/-- An address of either physical range (R343). -/
def inWindowRange (a : Nat) : Bool := decide (Config.windowBase ≤ a) && decide (a < Config.windowBase + Config.windowBytes)

/-- A valid entry that breaks R342 or R343 at its level. -/
def pteMalformed (level x : Nat) : Bool :=
  let leaf := pteLeaf x
  let a := pteAddr x
  decide (bits x 57 48 ≠ 0 ∨ bits x 11 9 ≠ 0) ||
  (leaf && decide (level < 2)) || (!leaf && decide (level = 3)) ||
  (!leaf && decide (bits x 7 7 ≠ 0 ∨ bits x 6 6 ≠ 0 ∨ bits x 5 2 ≠ 0)) ||
  (leaf && decide (level = 3 ∧ bits x 15 12 ≠ 0)) || (leaf && decide (level = 2 ∧ bits x 24 12 ≠ 0)) ||
  !(decide (a < Config.knsBytes) || (inWindowRange a && leaf && decide (level = 3) && pteStrong x))

/-- The outcome of a walk. -/
inductive WalkRes where
  | leaf (x : Nat) (big : Bool)
  /-- a leaf of a page that is not resident -/
  | absent (x : Nat) (big : Bool)
  /-- invalid (1) or malformed (2) -/
  | request (reason : Nat)
  | error
  deriving DecidableEq, Repr

/-- Levels `level` to 3 of a walk from a table (R344). Reasons: 0 not resident, 1 invalid, 2 malformed (R347). -/
def walkFrom (s : State) (pkg table va : Nat) : Nat → WalkRes
  | 0 => .request 2
  | n + 1 =>
    let level := 3 - n
    let a := table + 8 * bits va (51 - 9 * level) (43 - 9 * level)
    if s.bad.contains (knsKey pkg a / 8) ∨ ¬ s.linked pkg then .error
    else
      let x := rdLE s.kns (knsKey pkg a) 8
      if ¬ pteValid x then .request 1
      else if pteMalformed level x then .request 2
      else if pteLeaf x then (if pteResident x then .leaf x (level == 2) else .absent x (level == 2))
      else walkFrom s (ptePkg x) (pteAddr x) va n

/-- The walk of R344 for a partition, before the rights are checked. -/
def State.walk (s : State) (p va : Nat) : WalkRes :=
  let r := (mget 0 p s.io.ptroot).toNat
  if ¬ bitAt r 0 then .request 1 else walkFrom s (bits r 63 58) (bits r 47 12 * 4096) va 4

/-- A leaf held by a port's translation buffer (R345). -/
def State.tlbHit (s : State) (port p va : Nat) : Option (Nat × Bool) :=
  (s.clu port).tlb.findSome? (fun e =>
    if e.part = p ∧ e.page = (if e.big then va / 2 ^ 25 else va / 2 ^ 16) then some (e.leaf, e.big) else none)

/-- Hold a leaf, the oldest dropped past 8,192 (R345). -/
def State.tlbFill (s : State) (port p va leaf : Nat) (big : Bool) : State :=
  s.modClu port (fun k => { k with
    tlb := (k.tlb ++ [({ part := p, big := big, page := if big then va / 2 ^ 25 else va / 2 ^ 16, leaf := leaf } :
      TlbEntry)]).drop (k.tlb.length + 1 - 8192) })

/-- The frame a leaf maps an address to: package and physical address (R344). -/
def leafPhys (leaf : Nat) (big : Bool) (va : Nat) : Nat × Nat :=
  (ptePkg leaf, pteAddr leaf + (if big then va % 2 ^ 25 else va % 2 ^ 16))

/-- The place a physical address names: KNS memory, or a register window (R343). -/
def physLoc (pkg pa : Nat) : Loc :=
  if inWindowRange pa then .win (ckey pkg ((pa - Config.windowBase) / 0x10000)) (pa % 0x10000) else .kns pkg pa

/-! ## Page requests (R347, R348) -/

/-- The value of a kind-2 or kind-3 record. -/
def reqValue (die entry reason page : Nat) : Nat := die % 4 * 2 ^ 50 + entry * 2 ^ 38 + reason * 2 ^ 36 + page

/-- One of the 64 entries reserved for a partition is free (R347). -/
def Die.ownFree (d : Die) (p : Nat) : Bool := decide (d.reqs.countP (fun e => e.2.own && e.2.part == p) < 64)

/-- A free entry for a partition: one of its 64 reserved entries, else one of the 3,264 shared (R347). -/
def Die.room (d : Die) (p : Nat) : Bool := d.ownFree p || decide (d.reqs.countP (fun e => !e.2.own) < 3264)

/-- Enter a request into its die's queue and post its records. -/
def State.enterReq (s : State) (die : Nat) (q : PageReq) : State :=
  let d := s.die die
  match findUp 4096 (fun i => (mfind i d.reqs).isNone) with
  | none => s
  | some i =>
    let s := s.setDie die { d with reqs := mput i { q with own := d.ownFree q.part } d.reqs }
    let s := s.postRec 2 q.part (reqValue die i q.reason q.page)
    if q.flow then s.postRec 3 q.part (reqValue die i q.reason q.page) else s

/-- The page of a partition that a port's request names (R347). -/
def pageKey (port p va : Nat) : PageKey := ⟨dieOfClu port, p, va / 2 ^ 16⟩

/-- A new request may enter at once: an entry is free for it and no older pending request waits for that entry (R347). -/
def Die.direct (d : Die) (p : Nat) : Bool :=
  d.room p && d.pending.all (fun q => q.part != p) &&
    (d.ownFree p || d.pending.isEmpty)

/-- Request(va, reason) for a page, by a thread or a flow (R347, R348). -/
def State.request (s : State) (key : PageKey) (reason : Nat) (flow : Bool) : State :=
  let die := key.die
  let p := key.part
  let page := key.page
  let d := s.die die
  match d.reqs.find? (fun e => e.2.part = p ∧ e.2.page = page) with
  | some (i, q) =>
    if flow ∧ ¬ q.flow then
      (s.setDie die { d with reqs := mput i { q with flow := true } d.reqs }).postRec 3 p (reqValue die i q.reason page)
    else s
  | none =>
    if d.pending.any (fun q => q.part = p ∧ q.page = page) then
      s.setDie die { d with pending := d.pending.map (fun q =>
        if q.part = p ∧ q.page = page then { q with flow := q.flow || flow } else q) }
    else
      let q : PageReq := ⟨p, page, reason, flow, true⟩
      if d.direct p then s.enterReq die q else s.setDie die { d with pending := d.pending ++ [q] }

/-! ## Tokens (R362) -/

/-- The die beside the stack that holds a frame (R6, R343). -/
def stackDie (pkg pa : Nat) : Nat := pkg * 4 + min 3 (pa / 0x1800000000 / 2)

/-- Aligned 64-byte blocks that n bytes touch, by number (R362). -/
def blocksOf (a n : Nat) : List Nat := (List.range ((a + n - 1) / 64 - a / 64 + 1)).map (a / 64 + ·)

/-- The name of a request among those that wait for tokens: its partition, its life, its own name; a thread's and an engine's differ. -/
def Req.name (r : Req) : Nat × Nat × Nat := (r.tag, r.uid, 2 * r.id + b2n r.thr)

/-- Take tokens from a request's bucket on the die beside a frame; none when it holds too few. A register window has no frame, and no die
charges for it (R343, R362). -/
def State.spend (s : State) (r : Req) (pkg pa cost : Nat) : Option State :=
  let k := stackDie pkg pa
  let d := s.die k
  if d.qosctl.getLsbD 0 = false ∨ inWindowRange pa then some s
  else
    let have_ := mget 0 r.tag d.blevel
    if have_ < cost then none
    else some (s.setDie k { d with
      blevel := mset 0 r.tag (have_ - cost) d.blevel
      waiters := d.waiters.filter (fun e => e != r.name) })

/-- Charge a request of n bytes: one token for each block it touches, once for all pieces of an access, but for one reissued after a page
wake (R362). -/
def State.charge (s : State) (r : Req) (pkg pa n : Nat) : Option State :=
  if r.again && !r.repay then some s else s.spend r pkg pa (blocksOf pa n).length

/-- A request is among those that wait for tokens. -/
def State.waitsTokens (s : State) (r : Req) : Bool := s.dies.any (fun e => e.2.waiters.contains r.name)

/-- A request that is made anew waits for no tokens so far (R363). -/
def State.unwait (s : State) (r : Req) : State :=
  if s.waitsTokens r then
    { s with dies := s.dies.map (fun e => (e.1, { e.2 with waiters := e.2.waiters.filter (fun w => w != r.name) })) }
  else s

/-- A request of a partition waits for tokens at the die of a frame (R363). -/
def State.demand (s : State) (r : Req) (pkg pa : Nat) : State :=
  s.modDie (stackDie pkg pa) (fun d => { d with
    demand := sinsert r.tag d.demand
    waiters := if d.waiters.contains r.name then d.waiters else d.waiters ++ [r.name] })

/-! ## Watchpoints (R334, R335) -/

def opReads : POp → Bool | .rd => true | .wr _ _ => false | .amo _ _ | .cas _ _ | .phase _ _ => true
def opWrites : POp → Bool | .rd => false | .wr _ m => m != 0 | .amo _ _ | .cas _ _ | .phase _ _ => true

/-- The bytes of n that an operation touches: all of them, or those a store writes. -/
def opTouches (n : Nat) : POp → List Nat
  | .wr _ m => (List.range n).filter (fun i => bitAt m i)
  | _ => List.range n

/-- The first enabled watchpoint of a partition that an operation on n bytes at a place hits, with the first watched byte's offset. -/
def State.watchHit (s : State) (p : Nat) (l : Loc) (n : Nat) (op : POp) : Option (Nat × Nat) :=
  (List.range 4).findSome? (fun w =>
    let ctl := (mget 0 (4 * p + w) s.io.wctl).toNat
    let a := (mget 0 (4 * p + w) s.io.waddr).toNat
    if bitAt ctl 8 ∧ ((bitAt ctl 0 ∧ opReads op) ∨ (bitAt ctl 1 ∧ opWrites op)) then
      let size := 2 ^ bits ctl 7 2
      let hit (lo at_ : Nat) : Option (Nat × Nat) :=
        ((opTouches n op).find? (fun i => decide (lo ≤ at_ + i) && decide (at_ + i < lo + size))).map (fun i => (w, at_ + i))
      let named := s.lcore p (bits a 45 40) (bits a 39 29)
      match l with
      | .core c x => if bits a 63 60 = 2 ∧ named = some c then hit (bits a 18 0) x else none
      | .clu k x => if bits a 63 60 = 4 ∧ named.map cluOf = some k then hit (bits a 24 0) x else none
      | .glob x => if bits a 63 60 = 5 then hit (bits a 51 0) x else none
      | .kns _ _ | .win _ _ | .lost _ _ => none
    else none)

/-- Log a hit by an agent that is no thread of the partition and post its kind-4 record (R335). -/
def State.logWatch (s : State) (p w off kind unit : Nat) : State :=
  let e : Dword := BitVec.ofNat 64 (kind * 2 ^ 60 + unit % 4096 * 2 ^ 48 + w * 2 ^ 46 + off % 2 ^ 46)
  let l := (mget [] p s.io.wlog ++ [e])
  (s.modIo (fun io => { io with wlog := mset [] p (l.drop (l.length - 64)) io.wlog })).postRec 4 p
    (kind * 2 ^ 48 + w * 2 ^ 46)

/-! ## Banks (R90, R104) -/

/-- The new value of an AMO on n bytes (R210). -/
def amoNew (op : AmoOp) (n old v : Nat) : Nat :=
  let w := 8 * n
  match op with
  | .add => (old + v) % 2 ^ w
  | .swap => v % 2 ^ w
  | .and => old &&& v
  | .or => old ||| v
  | .min => if toSigned w old ≤ toSigned w v then old else v % 2 ^ w
  | .max => if toSigned w old ≤ toSigned w v then v % 2 ^ w else old
  | .minn => min old (v % 2 ^ w)
  | .maxn => max old (v % 2 ^ w)

/-- The fields of a phase word (R108). -/
def pwGen (w : Nat) : Nat := bits w 30 0
def pwOver (w : Nat) : Bool := bitAt w 31
def pwBytes (w : Nat) : Nat := bits w 63 32
def pwTbytes (w : Nat) : Nat := bits w 95 64
def pwArr (w : Nat) : Nat := bits w 111 96
def pwTarr (w : Nat) : Nat := bits w 127 112

/-- A phase word of its fields (R108). -/
def pwWord (gen : Nat) (ov : Bool) (bytes tbytes arr tarr : Nat) : Nat :=
  gen % 2 ^ 31 + b2n ov * 2 ^ 31 + bytes % 2 ^ 32 * 2 ^ 32 + tbytes % 2 ^ 32 * 2 ^ 64 + arr % 2 ^ 16 * 2 ^ 96 +
    tarr % 2 ^ 16 * 2 ^ 112

/-- The update of a phase word by db bytes and dn arrivals (R109). -/
def phaseUpdate (w db dn : Nat) : Nat :=
  let b := pwBytes w + db
  let n := pwArr w + dn
  let ov := pwOver w || decide (0xFFFFFFFF < b) || decide (0xFFFF < n)
  let b := min b 0xFFFFFFFF
  let n := min n 0xFFFF
  let ov := ov || decide (pwTbytes w < b) || decide (pwTarr w < n)
  if pwTbytes w ≤ b ∧ pwTarr w ≤ n then pwWord ((pwGen w + 1) % 2 ^ 31) ov 0 (pwTbytes w) 0 (pwTarr w)
  else pwWord (pwGen w) ov b (pwTbytes w) n (pwTarr w)

/-- A bank performs an operation on n bytes of a store at a: the old value and the new store. -/
def bankDo (m : Memory) (a n : Nat) (op : POp) : Nat × Memory :=
  let old := rdLE m a n
  match op with
  | .rd => (old, m)
  | .wr d mask => (old, wrMasked m a d mask n)
  | .amo o v => (old, wrLE m a (amoNew o n old v) n)
  | .cas e v => (old, if old = e % 2 ^ (8 * n) then wrLE m a v n else m)
  | .phase db dn => (old, wrLE m a (phaseUpdate old db dn) n)

/-- All n bytes. -/
def fullMask (n : Nat) : Nat := 2 ^ n - 1

/-- The bytes of n that an operation writes, as a mask. -/
def opMask (n old : Nat) : POp → Nat
  | .rd => 0
  | .wr _ m => m % 2 ^ n
  | .amo _ _ => fullMask n
  | .cas e _ => if old = e % 2 ^ (8 * n) then fullMask n else 0
  | .phase _ _ => fullMask n

/-- Count one byte written at pa into an open flow whose blocks hold it; a full block's index joins the flow's queue (R372). -/
def Flow.countByte (f : Flow) (pa : Nat) : Flow :=
  let r := f.reg.toNat
  let size := 64 * bits r 47 36
  let base := bits r 35 0 * 4096
  if bitAt r 63 ∧ base ≤ pa ∧ pa < base + size * bits r 55 48 then
    let b := (pa - base) / size
    let n := mget 0 b f.counts + 1
    if size ≤ n then { f with counts := mdel b f.counts, ready := f.ready ++ [b] }
    else { f with counts := mset 0 b n f.counts }
  else f

/-- Count the bytes of a mask that a tag wrote from pa into the flows of the tag (R372). -/
def State.countFlows (s : State) (pkg pa p mask n : Nat) : State :=
  if mask = 0 ∨ pkg ≠ s.boot.pkg then s
  else { s with ports := s.ports.map (fun e => (e.1, { e.2 with flows := e.2.flows.map (fun x =>
    if x.1 / 16 = p then (x.1, (List.range n).foldl (fun (f : Flow) i => if bitAt mask i then f.countByte (pa + i) else f) x.2)
    else x) })) }

/-- Words of KNS memory that answer with an uncorrectable error (R93). -/
def State.badAt (s : State) (pkg pa n : Nat) : Bool :=
  (List.range ((n + 7) / 8)).any (fun i => s.bad.contains (knsKey pkg (pa + 8 * i) / 8))

/-! ## Register windows (R291) -/

/-- Whether a compute operation that holds a queue entry names accumulator c (R291, R337). -/
def mxNames (c : Nat) (o : MxOp) : Bool :=
  match o.ins with
  | .mma a _ _ _ _ _ _ | .mxldc a _ _ | .mxstc a _ _ _ _ _ | .mxzero a => a.val == c
  | .mxgo => match o.snap with | some (f, _, _) => bits (f[2]).toNat 1 0 == c | none => false
  | _ => false

/-- An operation still in the kick register names accumulator c: an MXGO names that of shadow field 2 as it stands when the unit takes
it, after the configuration before it (R232). -/
def Mx.kickNames (c : Nat) : List MxOp → Nat → Bool
  | [], _ => false
  | o :: os, f2 =>
    (match o.ins with | .mxgo => bits f2 1 0 == c | _ => mxNames c o) ||
      Mx.kickNames c os (match o.ins with | .mxcfg n _ => if n.val = 2 then (o.args.getD 0 0).toNat else f2 | _ => f2)

/-- A compute operation on accumulator c has been issued and has not run to completion: BUSY (R232, R337). -/
def Mx.names (m : Mx) (c : Nat) : Bool :=
  Mx.kickNames c m.kicks (m.shadow[2]).toNat || m.ops.any (mxNames c) ||
    (match m.run with | some r => mxNames c r.op | none => false)

/-- A read of 8 bytes of a core's window. -/
def State.winRead (s : State) (c off : Nat) : Nat :=
  let x := s.core c
  if 0x1000 ≤ off ∧ off < 0x1800 then (mget 0 ((off - 0x1000) / 8) x.mbox).toNat
  else if isGateway c then 0
  else if off = 0x0008 then x.mx.status.toNat
  else if 0x0040 ≤ off ∧ off < 0x0080 then (x.mx.shadow[(Fin.ofNat 8 ((off - 0x40) / 8)).val]).toNat
  else if 0x0080 ≤ off ∧ off < 0x00A0 then bits x.mx.unf.toNat (8 * (off - 0x80) + 63) (8 * (off - 0x80))
  else if 0x00C0 ≤ off ∧ off < 0x0100 then bits x.mx.mask.toNat (8 * (off - 0xC0) + 63) (8 * (off - 0xC0))
  else if 0x0100 ≤ off ∧ off < 0x0120 then
    b2n (x.mx.names ((off - 0x100) / 8))
  else 0

/-! ## Performing one access -/

/-- The outcome of an access that reached its performing point, or did not: performed, failed with a cause, in need of a page for a
reason, or waiting at its port for tokens or for the end of a migration's hold. -/
inductive Perf where
  | ok (s : State) (x : Nat)
  | fail (s : State) (cause : Nat)
  | page (s : State) (k : PageKey) (reason : Nat)
  | again (s : State) (p : Poll)

/-- The way of an access to its performing point: the place where it will be performed, or what stops it (R344, R355). -/
inductive Route where
  | to (s : State) (l : Loc)
  | fail (s : State) (cause : Nat)
  | page (s : State) (k : PageKey) (reason : Nat)
  | again (s : State) (p : Poll)

/-- The right an operation needs, as a mask of R, W, X, A (R38). -/
def opRight : POp → Nat | .rd => 8 | .wr _ _ => 4 | .amo _ _ | .cas _ _ | .phase _ _ => 1

/-- The watchpoint an access hits; a thread of the partition is stopped before the access, anything else is logged (R335). -/
def State.hit? (s : State) (r : Req) (l : Loc) (n : Nat) (op : POp) : Option (Nat × Nat) :=
  if r.tag = 0 ∨ r.again then none else s.watchHit r.tag l n op
def Req.stopped (r : Req) : Bool := r.thr && !isGateway r.core

/-- Log the hit of an access that goes on to its performing point. -/
def State.logHit (s : State) (r : Req) : Option (Nat × Nat) → State
  | none => s
  | some (w, off) => s.logWatch r.tag w off r.kind r.unit

/-- Perform an operation at a place of this domain that is already translated and passed by the router. -/
def State.bank (s : State) (tag : Nat) (l : Loc) (n : Nat) (op : POp) : Perf :=
  match l with
  | .core c a =>
    let x := s.core c
    let (v, m) := bankDo x.mem a n op
    .ok (s.setCore c { x with mem := m }) v
  | .clu k a =>
    let x := s.clu k
    let (v, m) := bankDo x.mem a n op
    .ok (s.setClu k { x with mem := m }) v
  | .kns pkg pa =>
    if s.badAt pkg pa n then .fail s 0x0C
    else
      let (v, m) := bankDo s.kns (knsKey pkg pa) n op
      .ok ({ s with kns := m }.countFlows pkg pa tag (opMask n v op) n) v
  | .win c off =>
    if n ≠ 8 then .fail s 0x05 else .ok s (if opReads op then s.winRead c off else 0)
  | .glob _ | .lost _ _ => .fail s 0x0C

/-- The logical core of an address that is not in the table: the partition error response of place 3 (R357). -/
def State.noCore (s : State) (tag a : Nat) : State := s.violate tag 3 15 0 (bits a 39 29)

/-- The route and the ejection check of a place that needs no translation (R355, R357, R369). -/
def State.routePlace (s : State) (r : Req) (l : Loc) (n : Nat) : Route :=
  match l with
  | .lost _ a => .fail (s.noCore r.tag a) 0x04
  | l =>
    if ¬ s.linkedFrom (r.home.getD s.boot.pkg) ((locPkg l).getD s.boot.pkg) then .fail s 0x0C
    else match s.ejects r.tag l n with
      | some (place, owner, core, off) => .fail (s.violate r.tag place owner core off) 0x04
      | none => .to s l

/-- Forward a store or AMO to a frame into the read buffer of its port: the pieces of the line that are read already (R98). -/
def State.rbUpdate (s : State) (port pkg pa n : Nat) (old : Nat) (op : POp) : State :=
  if opWrites op = false ∨ (s.clu port).rbuf = [] then s
  else s.modClu port (fun k => { k with rbuf := k.rbuf.map (fun e =>
    if e.pkg = pkg ∧ e.pline = pa / 64 then
      let m := (bankDo (wrLE [] 0 e.data.toNat 64) (pa % 64) n (match op with
        | .amo o v => .wr (amoNew o n old v) (fullMask n)
        | .cas x v => .wr v (if old = x % 2 ^ (8 * n) then fullMask n else 0)
        | o => o)).2
      { e with data := BitVec.ofNat 512 (rdLE m 0 64) }
    else e) })

/-- A thread has read n bytes of a frame at their bank: the buffered line is too old for it (R98). -/
def State.rbSeen (s : State) (port pkg pa n uid : Nat) : State :=
  if (s.clu port).rbuf = [] then s
  else s.modClu port (fun k => { k with rbuf := k.rbuf.map (fun e =>
    if e.pkg = pkg ∧ e.pline = pa / 64 then { e with seen := e.seen ++ [(uid, fullMask n * 2 ^ (pa % 64))] } else e) })

/-- The leaf a port finds for an address: its own, or that of a walk, which it then holds (R344, R345). -/
def State.translate (s : State) (r : Req) (va : Nat) : WalkRes × State :=
  match s.tlbHit r.port r.tag va with
  | some (x, big) => (.leaf x big, s)
  | none => match s.walk r.tag va with
    | .leaf x big => (.leaf x big, s.tlbFill r.port r.tag va x big)
    | w => (w, s)

/-- A migration holds the page: stores, AMOs and CAS of the partition to it wait at every port, loads go on (R351). -/
def State.migHeld (s : State) (p va : Nat) (op : POp) : Bool :=
  opWrites op && s.dies.any (fun e => match e.2.mig with
    | some m => m.part == p && decide (m.va ≤ va) && decide (va < m.va + m.size)
    | none => false)

/-- An access to global memory leaves a port: the page of a request answered with poisoned data, watchpoint, translation, rights,
poison, tokens, then the frame's place. An access to a page that is not resident is charged and then needs the page (R335, R344, R347,
R349, R362). -/
def State.routeGlobal (s : State) (r : Req) (va n : Nat) (op : POp) : Route :=
  let s := s.unwait r
  let key := pageKey r.port r.tag va
  let hit := s.hit? r (.glob va) n op
  if r.poison.contains key then .fail s 0x0B
  else if hit.isSome && r.stopped then .fail s 9
  else
    let (w, s) := s.translate r va
    match w with
    | .error => .fail s 0x0C
    | .request reason => .page s key reason
    | .absent x big =>
      let (pkg, pa) := leafPhys x big va
      (match s.charge r pkg pa n with
       | none => .again (s.demand r pkg pa) .tokens
       | some s => .page s key 0)
    | .leaf x big =>
      let right := r.rights.getD (opRight op)
      if (pteRights x) &&& right ≠ right then .fail s 0x04
      else if ptePoison x then .fail s 0x0B
      else if s.migHeld r.tag va op then .again s .hold
      else
        let (pkg, pa) := leafPhys x big va
        match s.charge r pkg pa n with
        | none => .again (s.demand r pkg pa) .tokens
        | some s => (s.logHit r hit).routePlace r (physLoc pkg pa) n

/-- The way of an access to its performing point, with every check on it (R90). -/
def State.route (s : State) (r : Req) (l : Loc) (n : Nat) (op : POp) : Route :=
  match l with
  | .glob va => s.routeGlobal r va n op
  | l =>
    let hit := s.hit? r l n op
    if hit.isSome && r.stopped then .fail s 9
    else match s.routePlace r l n with
      | .to s l => .to (s.logHit r hit) l
      | x => x

/-- Perform an access where its way has led it, and forward a write of a frame to the port's read buffer (R98). -/
def State.performAt (s : State) (r : Req) (l : Loc) (n : Nat) (op : POp) : Perf :=
  match l, s.bank r.tag l n op with
  | .kns pkg pa, .ok s v => .ok (s.rbUpdate r.port pkg pa n v op) v
  | _, p => p

/-- Perform an access at its performing point, with every check on its way (R90). -/
def State.perform (s : State) (r : Req) (l : Loc) (n : Nat) (op : POp) : Perf :=
  match s.route r l n op with
  | .to s l => s.performAt r l n op
  | .fail s c => .fail s c
  | .page s k reason => .page s k reason
  | .again s p => .again s p

/-! ## Addresses -/

/-- The address-field bits of a space that R34 lists. -/
def spaceMask (space : Nat) : Nat :=
  match space with
  | 1 => 0x7FFFF
  | 2 => 0x3FFFE007FFFF
  | 3 => 0x1FFFFFF
  | 4 => 0x3FFFE1FFFFFF
  | 5 => 0xFFFFFFFFFFFFF
  | 6 => 0x3FFFE000FFFF
  | _ => 0

/-- Bytes of a space (R34). -/
def spaceExtent (space : Nat) : Nat :=
  match space with
  | 1 | 2 => 0x80000
  | 3 | 4 => 0x2000000
  | 5 => 2 ^ 52
  | 6 => 0x10000
  | _ => 0

/-- An address field with x added within its offset bits (R36, R38). -/
def fieldAdd (space a x : Nat) : Nat :=
  let e := spaceExtent space
  if e = 0 then a else a - a % e + (a % e + x) % e

/-- The place an address field of a space names for a core of a partition; none where a logical core is not in the table. -/
def State.place (s : State) (c tag space a : Nat) : Option Loc :=
  match space with
  | 1 => some (.core c (a % 0x80000))
  | 2 => (s.lcore tag (bits a 45 40) (bits a 39 29)).map (fun d => .core d (a % 0x80000))
  | 3 => some (.clu (cluOf c) (a % 0x2000000))
  | 4 => (s.lcore tag (bits a 45 40) (bits a 39 29)).map (fun d => .clu (cluOf d) (a % 0x2000000))
  | 5 => some (.glob (a % 2 ^ 52))
  | 6 => (s.lcore tag (bits a 45 40) (bits a 39 29)).map (fun d => .win d (a % 0x10000))
  | _ => none

/-- The reach of a thread's access (R34, R35): its own core and cluster, a core of its cluster, its cluster's store. The cores of
the I/O die stand in no cluster (entry 8). -/
def inReach (c : Nat) : Option Loc → Bool
  | some (.core d _) => d == c || (isCompute c && isCompute d && cluOf d == cluOf c)
  | some (.clu k _) => isCompute c && k == cluOf c
  | some (.win d _) => d == c || (isCompute c && isCompute d && cluOf d == cluOf c)
  | some (.glob _) => true
  | some (.kns _ _) => true
  | some (.lost _ _) => true
  | none => true

/-- The request of the thread being issued. -/
def State.req (s : State) : Req :=
  let c := s.cur.core
  { core := c, port := cluOf c, tag := s.ctag, thr := true, kind := 4, unit := idxOf c, uid := s.cth.uid,
    poison := s.cth.poisoned.toList }

/-- The checks of R38 on a segment, in order, and then what the instruction refuses of the segment's space; the place and the
resolved address of the access. A logical core that is not in the table is found on the access's way (R357). -/
def State.segCheck (s : State) (sgN : Fin 8) (o : Dword) (n right : Nat) (deny : Nat → Option Nat) :
    Except Halt (Loc × Dword) :=
  let g := s.cth.sg[sgN.val]
  let sp := g.space.toNat
  let a := fieldAdd sp g.base.toNat o.toNat
  let ra : Dword := BitVec.ofNat 64 (sp * 2 ^ 60 + g.rights.toNat * 2 ^ 56 + a)
  if g.rights.toNat &&& right = 0 then .error (.trap 0x04 o)
  else if g.limit.toNat < o.toNat + n then .error (.trap 0x03 o)
  else
    let l := s.place s.cur.core s.ctag sp a
    if sp = 0 ∨ 6 < sp ∨ ¬ inReach s.cur.core l then .error (.trap 0x04 o)
    else if o.toNat % n ≠ 0 then .error (.trap 0x05 o)
    else match deny sp with
      | some c => .error (.trap c o)
      | none => .ok (l.getD (.lost sp a), ra)

/-- A register window takes accesses of 8 bytes only (R44, R207). -/
def denyWindow (n sp : Nat) : Option Nat := if sp = 6 ∧ n ≠ 8 then some 0x05 else none

/-! ## Same-bank order (R95) -/

/-- The banks n bytes at a place touch: a place kind, an instance, bank numbers. -/
def banksOf (l : Loc) (n : Nat) : Nat × Nat × List Nat :=
  match l with
  | .core c a => (0, c, (List.range ((a % 16 + n + 15) / 16)).map (fun i => (a / 16 + i) % 16))
  | .clu k a => (1, k, (List.range ((a % 32 + n + 31) / 32)).map (fun i => (a / 32 + i) % 64))
  | .glob va => (2, 0, (List.range ((va % 256 + n + 255) / 256)).map (fun i => va / 256 + i))
  | .kns pkg pa => (3, pkg, (List.range ((pa % 256 + n + 255) / 256)).map (fun i => pa / 256 + i))
  | .win c _ => (4, c, [0])
  | .lost _ a => (5, a, [])

def sameBank (l : Loc) (n : Nat) (l' : Loc) (n' : Nat) : Bool :=
  let a := banksOf l n
  let b := banksOf l' n'
  a.1 == b.1 && a.2.1 == b.2.1 && a.2.2.any (b.2.2.contains ·)

def Piece.finished (p : Piece) : Bool := match p.stage with | .done _ => true | .failed _ => true | _ => false

/-- The frame a global address now maps to, without any effect. -/
def State.peek (s : State) (port p va : Nat) : Option (Nat × Bool) :=
  match s.tlbHit port p va with
  | some e => some e
  | none => match s.walk p va with
    | .leaf x big => some (x, big)
    | _ => none

/-- The frame a global place now maps to, without any effect. -/
def State.frameOf (s : State) (port p : Nat) (l : Loc) : Option (Nat × Nat) :=
  match l with
  | .glob va => (s.peek port p va).map (fun e => leafPhys e.1 e.2 va)
  | _ => none

/-- Two global or other places in one bank, by virtual block or by frame (R41, R95). -/
def State.pieceBank (s : State) (port p : Nat) (l : Loc) (n : Nat) (q : Piece) : Bool :=
  sameBank l n q.loc q.n ||
    (match s.frameOf port p l, q.phys.or (s.frameOf port p q.loc) with
     | some (k, f), some (pkg, pa) => k == pkg && decide (f / 256 ≤ (pa + q.n - 1) / 256) && decide (pa / 256 ≤ (f + n - 1) / 256)
     | _, _ => false)

/-- The class an access of this resolved address and place has: RLX.A through space 0x1 and RLX.C outside global memory are RLX (R96, R97). -/
def clsAt (ra : Dword) (l : Loc) (cls : Cls) : Cls :=
  match cls, l with
  | .rlxa, _ => if bits ra.toNat 63 60 = 1 then .rlx else .rlxa
  | .rlxc, .glob _ => .rlxc
  | .rlxc, _ => .rlx
  | k, _ => k

/-- A class whose accesses go before later ones to their bank: RLX, and RLX.C, which is RLX at the bank when it misses (R95, R98). -/
def clsOrders (cls : Cls) : Bool := cls == .rlx || cls == .rlxc

/-- The class of one piece of an access (R197). -/
def Access.pieceCls (a : Access) (p : Piece) : Cls := if p.ord then .ord else clsAt p.ra p.loc a.cls

/-- An earlier RLX access of the thread to one of the banks is not yet performed (R95). -/
def State.bankBusy (s : State) (uid : Nat) (l : Loc) (n : Nat) : Bool :=
  (s.accesses uid).any (fun a => a.pieces.any (fun q => !q.finished && clsOrders (a.pieceCls q) &&
    s.pieceBank (cluOf a.iss.core) a.iss.tag l n q))

/-! ## Ordinary accesses (R93) -/

/-- An ordinary access of the thread being issued may go: its own earlier accesses to the banks are performed (R95). -/
def State.ordinaryMay (s : State) (l : Loc) (n : Nat) : Except Halt Unit :=
  if s.bankBusy s.cth.uid l n then .error (.wait s .drain) else .ok ()

/-- What becomes of a thread whose ordinary access does not go on: a trap, parking on the page, a wait at the port (R93, R318). -/
def Route.halt (o ra : Dword) : Route → Except Halt (State × Loc)
  | .to s l => .ok (s, l)
  | .fail s c => .error (.trapIn s c (if c = 9 then ra else o))
  | .page s k reason => .error (.park (s.request k reason false) k)
  | .again s p => .error (.wait s p)

/-- An ordinary access of the thread being issued: offset o for XVAL, ra the resolved address of its first byte. It is performed
within the instruction's step, after the thread's own earlier accesses to its banks. -/
def State.ordinary (s : State) (l : Loc) (n : Nat) (op : POp) (o ra : Dword) : Except Halt (State × Nat) := do
  s.ordinaryMay l n
  let (s, l) ← (s.route s.req l n op).halt o ra
  match s.performAt s.req l n op with
  | .ok s v => .ok (match l with | .kns pkg pa => if opReads op then s.rbSeen (cluOf s.cur.core) pkg pa n s.cth.uid else s | _ => s, v)
  | .fail s c => .error (.trapIn s c o)
  | .page s k reason => .error (.park (s.request k reason false) k)
  | .again s p => .error (.wait s p)

/-! ## Relaxed accesses (R94), and ordinary ones in pieces (R91) -/

/-- The bytes of a piece at a place (R91). -/
def pieceWidth (l : Loc) (n : Nat) : Nat :=
  match l with | .core _ _ => 16 | .clu _ _ => 32 | .lost _ _ => n | _ => 8

/-- The place i bytes after a place. -/
def Loc.plus (l : Loc) (i : Nat) : Loc :=
  match l with
  | .core c a => .core c (a + i)
  | .clu k a => .clu k (a + i)
  | .glob va => .glob (va + i)
  | .kns p a => .kns p (a + i)
  | .win c a => .win c (a + i)
  | .lost sp a => .lost sp a

/-- The pieces of an access of n bytes at a place (R91), the value's byte p at position p of `op`. -/
def splitPieces (l : Loc) (n : Nat) (op : POp) (o ra : Dword) : List Piece :=
  let w := pieceWidth l n
  if n ≤ w then [{ loc := l, n := n, op := op, pos := 0, off := o, ra := ra }]
  else (List.range (n / w)).map (fun i =>
    let op' := match op with
      | .wr d m => POp.wr (d / 2 ^ (8 * w * i) % 2 ^ (8 * w)) (m / 2 ^ (w * i) % 2 ^ w)
      | o => o
    { loc := l.plus (w * i), n := w, op := op', pos := w * i, off := o, ra := ra })

/-- A piece that behaves as ordinary, whose way has led to its performing point. -/
def Piece.routed (p : Piece) (l : Loc) : Piece :=
  { p with ord := true, stage := .arrived, phys := match l with | .kns pkg pa => some (pkg, pa) | _ => none
           loc := match l with | .kns _ _ => p.loc | l => l }

/-- What the bank would refuse of an access of n bytes at a place, found before its first piece is performed (R44, R93). -/
def State.wholeCheck (s : State) (l : Loc) (n : Nat) (o : Dword) : Except Halt Unit :=
  match l with
  | .kns pkg pa => if s.badAt pkg pa n then .error (.trapIn s 0x0C o) else .ok ()
  | .win _ _ => if n ≠ 8 then .error (.trapIn s 0x05 o) else .ok ()
  | _ => .ok ()

/-- An ordinary access whose pieces are then performed one by one: every check on its way is made here, and the thread waits for its
last piece (R91, R93). -/
def State.ordinaryPieces (s : State) (l : Loc) (n : Nat) (op : POp) (o ra : Dword) (dest : Dest) : Eff := do
  s.ordinaryMay l n
  let (s, l') ← (s.route s.req l n op).halt o ra
  s.wholeCheck l' n o
  let ps := (splitPieces l n op o ra).map (fun p => p.routed (l'.plus p.pos))
  .error (.access { s with net := s.net ++
    [{ iss := s.issuer, cls := .ord, dest := dest, pieces := ps, ord := some s.cur.glen, issued := s.counter }] })

/-- The leaf of a page, resident or not, without any effect. -/
def State.peekLeaf (s : State) (port p va : Nat) : Option Nat :=
  match s.tlbHit port p va with
  | some e => some e.1
  | none => match s.walk p va with
    | .leaf x _ | .absent x _ => some x
    | _ => none

/-- The walk of a port for a page now, without any effect: the reason of the request it would make (R344, R347). -/
def State.missing (s : State) (port : Nat) (k : PageKey) : Option Nat :=
  let va := k.page * 65536
  match s.tlbHit port k.part va with
  | some _ => none
  | none => match s.walk k.part va with
    | .absent _ _ => some 0
    | .request reason => some reason
    | _ => none

/-- A place whose accesses behave as ordinary whatever their class: a register window, a strong page (R44, R99). -/
def State.strongPlace (s : State) (l : Loc) : Bool :=
  match l with
  | .win _ _ => true
  | .lost sp _ => sp == 6
  | .glob va => (s.peekLeaf (cluOf s.cur.core) s.ctag va).any pteStrong
  | _ => false

/-- A relaxed access is outstanding until it is performed and, unless it only writes, its reply has arrived (R94). -/
def Access.outstanding (a : Access) : Bool :=
  !(a.performed && a.pieces.all (fun p => match p.op with | .wr _ _ => true | _ => false))

/-- What a later relaxed load of a register leaves an earlier one: a register is taken, of a vector register the lanes it writes (R207). -/
def Access.yields (a b : Access) : Access :=
  match a.dest, b.dest with
  | .g r _ _, .g r' _ _ => if b.iss.uid = a.iss.uid ∧ r = r' then { b with dest := .gone } else b
  | .v r keep, .v r' keep' => if b.iss.uid = a.iss.uid ∧ r = r' then { b with dest := .v r (keep' ||| ~~~keep) } else b
  | _, _ => b

/-- Issue a relaxed access; a seventeenth waits (R94). A later relaxed load of a register takes it from an earlier one, a later VLD the
lanes it writes: the earlier reply then leaves them (R207). -/
def State.issueRelaxed (s : State) (a : Access) : Except Halt State :=
  if 16 ≤ ((s.accesses a.iss.uid).filter Access.outstanding).length then .error (.wait s .drain)
  else .ok { s with net := s.net.map a.yields ++ [{ a with issued := s.counter }] }

/-! ## Resolved addresses -/

def raSpace (a : Dword) : Nat := bits a.toNat 63 60
def raRights (a : Dword) : Nat := bits a.toNat 59 56
def raField (a : Dword) : Nat := bits a.toNat 55 0
/-- The offset field of a resolved address. -/
def raOffset (a : Dword) : Nat := if spaceExtent (raSpace a) = 0 then raField a else raField a % spaceExtent (raSpace a)
/-- Every bit of [55:0] that R34 does not list for the space is zero. -/
def raListed (a : Dword) : Bool := decide (raField a ||| spaceMask (raSpace a) = spaceMask (raSpace a))
/-- The address with x added within its field. -/
def raAdd (a : Dword) (x : Nat) : Dword :=
  BitVec.ofNat 64 (raSpace a * 2 ^ 60 + raRights a * 2 ^ 56 + fieldAdd (raSpace a) (raField a) x)

/-- A plain access of the thread through a resolved address, with XVAL the address (R204, R274). -/
def State.viaAddress (s : State) (a : Dword) (n : Nat) (op : POp) (xval : Dword) : Except Halt (State × Nat) :=
  match s.place s.cur.core s.ctag (raSpace a) (raField a) with
  | none => .error (.trapIn (s.noCore s.ctag (raField a)) 0x04 xval)
  | some l => s.ordinary l n op xval a

/-! ## What the device keeps of an attempt that does not complete -/

/-- The machine before an attempt that fails, with what the device logged on the way. -/
def State.keepLog (s0 s1 : State) : State :=
  (List.range 4).foldl (fun s n =>
    s.modCore (ckey s.boot.pkg (2048 + n)) (fun c => { c with lost := (s1.core (ckey s1.boot.pkg (2048 + n))).lost }))
    { s0 with io := s1.io, dies := s1.dies }

/-! ## Waiting PHWAITs (R110) -/

/-- The deferred traps of operations whose own phase word lies at a place; a space-0x1 or 0x3 word is the unit's core's own (R125). -/
def Thread.deferredAt (s : State) (t : Thread) (tag : Nat) (l : Loc) : List Deferred :=
  t.deferred.filter (fun d => d.pw != 0 && s.place d.core tag (raSpace d.pw) (raField d.pw) == some l)

/-- The generation of the word at a place of a core or cluster store. -/
def State.genAt (s : State) (l : Loc) : Nat :=
  match l with
  | .core c a => pwGen (rdLE (s.core c).mem a 16)
  | .clu k a => pwGen (rdLE (s.clu k).mem a 16)
  | _ => 0

/-- The read a waiting PHWAIT makes when the bank has applied an update, a PHINIT or a store to its word: past the generation it waits for,
its read is made and its acquire follows; a deferred trap of the word's operation is observed by the group issued again (R110, R125). -/
def State.phaseRead (s : State) (tag : Nat) (t : Thread) : Thread :=
  match t.ctl, t.wait with
  | .run, .poll (.phase l e d scope next) =>
    if s.genAt l = e then t
    else if t.deferredAt s tag l ≠ [] then { t with wait := .ready }
    else { t with wait := .acquire { res := some (.g d, BitVec.ofNat 64 (s.genAt l)), scope := scope, next := next } }
  | _, _ => t

/-- Every waiting PHWAIT reads its word: after each write of a step that makes several, and at the end of each step (R110, entry 31). -/
def State.phaseReads (s : State) : State :=
  if s.cores.any (fun e => e.2.slots.any (fun p => match p.2.wait with | .poll (.phase _ _ _ _ _) => true | _ => false)) then
    { s with cores := s.cores.map (fun e => (e.1, { e.2 with slots := e.2.slots.map (fun p => (p.1, s.phaseRead e.2.tag.val p.2)) })) }
  else s

/-- The waiting PHWAITs read after an operation that writes. -/
def State.afterWrite (s : State) (op : POp) : State := if opWrites op then s.phaseReads else s

/-! ## Instructions and operations that make several accesses (R91, R106, R197, R204) -/

/-- An operation begins, or goes on after the accesses of a trail. -/
def State.begins (s : State) (t : List Made) (replay : Bool) : State :=
  { s with cur := { s.cur with trail := t, made := [], replay := replay, acted := false } }

/-- The answer of an access that was made before, if it is the next of the trail; none of it is left where the operation has taken another
way. -/
def State.answered (s : State) (a n : Nat) (op : POp) : Option (Option Nat × State) :=
  match s.cur.trail with
  | m :: t =>
    if m.a = a ∧ m.n = n ∧ m.op = op then some (m.res, { s with cur := { s.cur with trail := t, made := s.cur.made ++ [m] } }) else none
  | [] => none

/-- An access is made, or a choice: its answer joins the trail. -/
def State.noteAccess (s : State) (a n : Nat) (op : POp) (res : Option Nat) (acted : Bool) : State :=
  { s with cur := { s.cur with trail := [], made := s.cur.made ++ [{ a, n, op, res }], acted := s.cur.acted || acted } }

/-- One of n ways where the spec leaves the order open: the same again when the operation goes on (R91, entries 7 and 68). -/
def State.oneOf (s : State) (a n : Nat) : Nat × State :=
  if n ≤ 1 then (0, s)
  else match s.answered a 0 .rd with
    | some (x, s) => (x.getD 0 % n, s)
    | none =>
      let (x, s) := s.freeW
      let i := x.toNat % n
      (i, s.noteAccess a 0 .rd (some i) false)

/-- The part of an operation on some bytes that falls on n of them from byte i on. -/
def POp.part (op : POp) (i n : Nat) : POp :=
  match op with
  | .wr d m => .wr (d / 2 ^ (8 * i) % 2 ^ (8 * n)) (m / 2 ^ i % 2 ^ n)
  | .amo o v => .amo o (v / 2 ^ (8 * i) % 2 ^ (8 * n))
  | o => o

/-- An ordinary access of an instruction that makes several: made in this step, or before. Where the move makes them one by one, a second
one waits for the next (entry 68). -/
def State.once (s : State) (l : Loc) (n : Nat) (op : POp) (o ra : Dword) : Except Halt (State × Nat) :=
  match s.answered ra.toNat n op with
  | some (x, s) => .ok (s, x.getD 0)
  | none =>
    if s.cur.split ∧ s.cur.acted then .error (.wait s .more)
    else (s.ordinary l n op o ra).map (fun r => ((r.1.afterWrite op).noteAccess ra.toNat n op (some r.2) true, r.2))

/-- A piece of such an access: len bytes from byte i on. The first piece is checked and paid for as the whole access (R91, R335, R362). -/
def State.oncePiece (s : State) (l : Loc) (n : Nat) (op : POp) (o ra : Dword) (first : Bool) (i len : Nat) :
    Except Halt (State × Nat) :=
  let a := ra.toNat + i
  let op' := op.part i len
  match s.answered a len op' with
  | some (x, s) => .ok (s, x.getD 0)
  | none =>
    if s.cur.split ∧ s.cur.acted then .error (.wait s .more)
    else do
      s.ordinaryMay l n
      let (s, l') ← if first then (s.route s.req l n op).halt o ra
        else (s.route { s.req with again := true } (l.plus i) len op').halt o ra
      if first then s.wholeCheck l' n o
      let l' := if first then l'.plus i else l'
      match s.performAt s.req l' len op' with
      | .ok s v => .ok ((s.afterWrite op').noteAccess a len op' (some v) true, v)
      | .fail s c => .error (.trapIn s c o)
      | .page s k reason => .error (.park (s.request k reason false) k)
      | .again s p => .error (.wait s p)

/-- The pieces that are left of an access, in any order (R91). -/
def State.oncePieces (s : State) (l : Loc) (n : Nat) (op : POp) (o ra : Dword) :
    Nat → Bool → List (Nat × Nat) → Nat → Except Halt (State × Nat)
  | 0, _, _, x => .ok (s, x)
  | fuel + 1, first, ps, x =>
    match ps with
    | [] => .ok (s, x)
    | _ => do
      let (j, s) := s.oneOf ra.toNat ps.length
      let p := ps.getD j (0, 0)
      let (s, v) ← s.oncePiece l n op o ra first p.1 p.2
      s.oncePieces l n op o ra fuel false (ps.eraseIdx j) (x + v % 2 ^ (8 * p.2) * 2 ^ (8 * p.1))

/-- An ordinary access of n bytes of an instruction that makes several: whole, or in its pieces, as it was begun (R91, entry 68). -/
def State.onceWide (s : State) (l : Loc) (n : Nat) (op : POp) (o ra : Dword) : Except Halt (State × Nat) :=
  let w := pieceWidth l n
  let pieces : Bool := match s.cur.trail with
    | m :: _ => !(m.a == ra.toNat && m.n == n && m.op == op)
    | [] => s.cur.split
  if pieces = true ∧ w < n then
    s.oncePieces l n op o ra (n / w) true ((List.range (n / w)).map (fun i => (w * i, w))) 0
  else s.once l n op o ra

/-- An instruction that makes several accesses, and none that writes but its last, in a way of making one: at once, where no access has to
wait; else one after another, where what is made stays made and is not made again. A trap leaves no effect but what the device recorded; an
instruction that parks is issued again whole (R10, R91, R204, R316, R318, entry 68). -/
def State.tracked (s : State) (whole pieces : State → Eff) : Eff :=
  let settle (e : Eff) : Eff :=
    match e with
    | .error (.trapIn s' c v) => .error (.trapIn (s.keepLog s') c v)
    | .error (.flagsIn s' f l) => .error (.flagsIn (s.keepLog s') f l)
    | e => e
  let one : Eff :=
    match pieces (s.begins s.cth.trail false) with
    | .ok (s', tgt) => .ok ({ s' with cur := s.cur }, tgt)
    | .error (.wait s' p) =>
      .error (.wait ({ s' with cur := s.cur }.modCth (fun t => { t with trail := s'.cur.made ++ s'.cur.trail })) p)
    | .error (.park s' k) => .error (.park ({ s' with cur := s.cur }.modCth (fun t => { t with trail := [] })) k)
    | .error (.access s') => .error (.access { s' with cur := s.cur })
    | e => settle e
  if s.cur.split ∨ s.cth.trail ≠ [] then one
  else match whole s with
    | .error (.wait _ _) => one
    | e => settle e

/-- A way in which an instruction makes its plain accesses through resolved addresses, with XVAL the address (R204, R274). -/
abbrev Via := State → Dword → Nat → POp → Except Halt (State × Nat)

/-- At once. -/
def viaWhole : Via := fun s a n op => s.viaAddress a n op a

/-- One after another, in pieces (entry 68). -/
def State.onceAddress (s : State) (a : Dword) (n : Nat) (op : POp) : Except Halt (State × Nat) :=
  match s.place s.cur.core s.ctag (raSpace a) (raField a) with
  | none => .error (.trapIn (s.noCore s.ctag (raField a)) 0x04 a)
  | some l => s.onceWide l n op a a

/-! ## Accesses of engines (R36, R106, R348) -/

/-- What the checks of R36 find in an address an engine will touch, n bytes with a right: refused or fine. -/
def engineAddrOk (a : Dword) (n right : Nat) : Bool :=
  let sp := raSpace a
  decide (1 ≤ sp ∧ sp ≤ 6) && raListed a && decide (raRights a &&& right ≠ 0) && decide (raOffset a + n ≤ spaceExtent sp)

/-- What an access comes to; a page that its flow is not to wait for fails it (R57, R300). -/
def Perf.hardly (r : Req) : Perf → Perf
  | .page s k reason => if r.hard && reason != 0 then .fail s 0x0D else .page s k reason
  | p => p

/-- Performing an engine's access of n bytes, or the first piece of one: len bytes from byte i on, the whole access being checked and paid
for (R36, R91, R335, R362). -/
def State.engineDo (s : State) (r : Req) (a : Dword) (n : Nat) (op : POp) (part : Option (Nat × Nat) := none) : Perf :=
  match s.place r.core r.tag (raSpace a) (raField a) with
  | none => .fail (s.noCore r.tag (raField a)) 0x04
  | some l =>
    if (match l with | .clu k _ => decide (32 ≤ cluIdx k) | _ => false) then .fail s 0x04
    else match part with
      | none => (s.perform r l n op).hardly r
      | some (i, len) =>
        match s.route r l n op with
        | .to s l => if (match l with | .win _ _ => n != 8 | _ => false) then .fail s 0x05 else s.performAt r (l.plus i) len (op.part i len)
        | .fail s c => .fail s c
        | .page s k reason => (Perf.page s k reason).hardly r
        | .again s p => .again s p

end Sys2Proof.Machine
end

