-- ==== Sys2Proof/Machine/Control.lean ====
section
/-! DEFINITION. Page 0: branches and jumps (R160 to R162, R72). -/

namespace Sys2Proof.Machine

/-- A taken transfer: a target outside the local segment raises segment escape (R72). -/
def jump (s : State) (tgt : Dword) : Eff :=
  if s.inLocal s.cur.core s.cth tgt.toNat 2 then .ok (s, some tgt) else .error (.trap 0x0A tgt)

/-- A branch: taken or not (R160). -/
def branch (s : State) (taken : Bool) (disp : Dword) : Eff :=
  if taken then jump s (s.cur.pc + 2 * disp) else done s

/-- A branch on a register. -/
def branchOn (s : State) (r : Fin 24) (disp : Dword) (f : Dword → Bool) : Eff := do
  let x ← readG s r
  branch s (f x) disp

/-- BR (R160). -/
def execBr (disp : Dword) (s : State) : Host.Outcome State Fault Refusal := finish s (branch s true disp)

/-- CALL: lr ← the next group's address (R160). -/
def execCall (disp : Dword) (s : State) : Host.Outcome State Fault Refusal :=
  finish s (do
    let (s, tgt) ← branch s true disp
    .ok (writeG s 23 s.nextPc, tgt))

/-- JR (R161). -/
def execJr (r : Fin 24) (s : State) : Host.Outcome State Fault Refusal :=
  finish s (do
    let tgt ← readG s r
    if bitAt tgt.toNat 0 then .error (.trap 0x05 tgt) else jump s tgt)

/-- JALR: the target is read before the link is written (R161). -/
def execJalr (d r : Fin 24) (s : State) : Host.Outcome State Fault Refusal :=
  finish s (do
    let tgt ← readG s r
    if bitAt tgt.toNat 0 then .error (.trap 0x05 tgt)
    else do
      let (s, t) ← jump s tgt
      .ok (writeG s d s.nextPc, t))

/-- BZ (R160). -/
def execBz (r : Fin 24) (disp : Dword) (s : State) : Host.Outcome State Fault Refusal :=
  finish s (branchOn s r disp (fun x => x == 0))

/-- BNZ (R160). -/
def execBnz (r : Fin 24) (disp : Dword) (s : State) : Host.Outcome State Fault Refusal :=
  finish s (branchOn s r disp (fun x => x != 0))

/-- BLTZ (R160). -/
def execBltz (r : Fin 24) (disp : Dword) (s : State) : Host.Outcome State Fault Refusal :=
  finish s (branchOn s r disp (fun x => x.msb))

/-- BGEZ (R160). -/
def execBgez (r : Fin 24) (disp : Dword) (s : State) : Host.Outcome State Fault Refusal :=
  finish s (branchOn s r disp (fun x => !x.msb))

/-- LOOP: the decrement is made whether the branch is taken or not, and not if it is refused (R160, R162). -/
def execLoop (r : Fin 24) (disp : Dword) (s : State) : Host.Outcome State Fault Refusal :=
  finish s (do
    let x ← readG s r
    let (s, tgt) ← branch s (x - 1 != 0) disp
    .ok (writeG s r (x - 1), tgt))

end Sys2Proof.Machine
end

