-- ==== Sys2Proof/Machine/Engine.lean ====
section
/-! DEFINITION. Programs of engines over memory: reads and writes by resolved address, refusal, pause and abandonment (R36, R48,
R106, R217, R257, R348). -/

namespace Sys2Proof.Machine

/-- An access of an engine: whole, or a piece of it: len bytes from byte i on, the first piece made or a later one (R91); whether such a
later one is reissued after a page wake (R362); what XVAL names where it fails, if not its address; its place, if that was found before, and
whether its way there is clear. -/
structure EngAcc where
  r    : Req
  a    : Dword
  n    : Nat
  op   : POp
  part : Option (Nat × Nat × Bool) := none
  repay : Bool := false
  xval : Option Dword := none
  place : Option Loc := none
  clear : Bool := false

/-- What XVAL names where the access fails. -/
def EngAcc.names (x : EngAcc) : Dword := x.xval.getD x.a

/-- What is recorded of an access that is made (`Made`). -/
def EngAcc.made (x : EngAcc) (res : Option Nat) : Made :=
  match x.part with
  | none => { a := x.a.toNat, n := x.n, op := x.op, res := res }
  | some (i, len, _) => { a := x.a.toNat + i, n := len, op := x.op.part i len, res := res }

/-- The access is made; `poison` holds the page on which it receives poisoned data (R349). -/
def EngAcc.perform (x : EngAcc) (s : State) (poison : List PageKey) : Perf :=
  let r := { x.r with poison := x.r.poison ++ poison }
  match x.place with
  | some l =>
    let (i, len) := match x.part with | some (i, len, _) => (i, len) | none => (0, x.n)
    let hit := match x.part with | some (_, _, false) => none | _ => s.hit? r l x.n x.op
    (match (if x.clear then Route.to s l else s.routePlace r l x.n) with
     | .to s l => (s.logHit r hit).performAt r (l.plus i) len (x.op.part i len)
     | .fail s c => .fail s c
     | .page s k reason => .page s k reason
     | .again s p => .again s p)
  | none => match x.part with
    | none => s.engineDo r x.a x.n x.op
    | some (i, len, true) => s.engineDo r x.a x.n x.op (some (i, len))
    | some (i, len, false) => s.engineDo { r with again := true, repay := x.repay } (raAdd x.a i) len (x.op.part i len)

/-- What the trail keeps of a later piece that pauses on a page (R362). -/
def EngAcc.pause (x : EngAcc) : List Made :=
  match x.part with
  | some (i, _, false) => if x.repay then [] else [{ a := x.a.toNat + i, n := 0, op := .rd, res := none }]
  | _ => []

/-- A later piece that has paused on a page pays again (R362). -/
def EngAcc.reissued (x : EngAcc) (s : State) : EngAcc × State :=
  match x.part with
  | some (i, _, false) => match s.answered (x.a.toNat + i) 0 .rd with
    | some (none, s) => ({ x with repay := true }, s)
    | _ => (x, s)
  | _ => (x, s)

/-- Why an engine's operation does not complete in this step: refused with XVAL v, in need of a page for a reason, waiting at its port
for tokens or the end of a hold, or at an access it has not made, where it makes none itself. -/
inductive EngStop where
  | refused (s : State) (v : Dword)
  | paused (s : State) (k : PageKey) (reason : Nat)
  | again (s : State) (p : Poll)
  | need (free : Nat) (made : List Made) (x : EngAcc)

/-- A program of an engine. -/
abbrev Eng (α : Type) := StateT State (Except EngStop) α

/-- Refuse the operation with the value of XVAL. -/
def Eng.refuse (v : Dword) : Eng α := fun s => .error (.refused s v)

/-- Go on only where a condition holds. -/
def Eng.need (b : Bool) (v : Dword) : Eng Unit := if b then pure () else Eng.refuse v

/-- Refuse with the value, if there is one. -/
def Eng.refuseIf : Option Dword → Eng Unit
  | some v => Eng.refuse v
  | none => pure ()

/-- What becomes of an access that names a in XVAL where it fails. -/
def Eng.ofPerf (a : Dword) : Perf → Except EngStop (Nat × State)
  | .ok s v => .ok (v, s)
  | .fail s _ => .error (.refused s a)
  | .page s k reason => .error (.paused s k reason)
  | .again s p => .error (.again s p)

/-- A part of an operation whose failing accesses name v in XVAL (R257). -/
def Eng.naming (v : Dword) (e : Eng α) : Eng α := fun s =>
  match e s with
  | .error (.refused s _) => .error (.refused s v)
  | r => r

/-- A part of an operation whose failing accesses it survives: the address of the failure. -/
def Eng.soft (e : Eng α) : Eng (Except Dword α) := fun s =>
  match e s with
  | .ok (x, s) => .ok (.ok x, s)
  | .error (.refused s v) => .ok (.error v, s)
  | .error e => .error e

/-- One access: its answer, where the operation has made it before; else it is made, or the operation stops before it (entry 68). -/
def Eng.one (x : EngAcc) : Eng Nat := fun s =>
  let (x, s) := x.reissued s
  let m := x.made none
  match s.answered m.a m.n m.op with
  | some (some v, s) => .ok (v, s)
  | some (none, s) => .error (.refused s x.names)
  | none =>
    if s.cur.replay then .error (.need s.free s.cur.made x)
    else match Eng.ofPerf x.names (x.perform s []) with
      | .ok (v, s) => .ok (v, s.afterWrite m.op)
      | .error e => .error e

/-- Repeat e until it answers: a compare-and-swap that another agent has beaten is made again (R256). -/
def Eng.retry (x : α) (e : Eng (Option α)) : Nat → Eng α
  | 0 => pure x
  | n + 1 => do
    match ← e with
    | some y => pure y
    | none => Eng.retry x e n

/-- As often as the accesses made so far can have answered; one more access ends the step, or succeeds, nothing coming between. -/
def Eng.loop (x : α) (e : Eng (Option α)) : Eng α := fun s => Eng.retry x e (s.cur.trail.length + 2) s

/-- A part of an operation; where it is refused after accesses made in other steps, u undoes what stands before it (R257). -/
def Eng.undoing (u : Eng Unit) (e : Eng α) : Eng α := fun s =>
  match e s with
  | .error (.refused s v) =>
    if s.cur.replay then match (Eng.soft u) s with
      | .ok (_, s) => .error (.refused s v)
      | .error x => .error x
    else .error (.refused s v)
  | r => r

/-- The operation makes its next access by itself in one step with others to come, or has made it so before. -/
def State.stepwise (s : State) : Bool := s.cur.replay || s.cur.trail != []

/-- The cycle at which the operation first comes here: the same again when it goes on after an access (R313). -/
def Eng.stamp (a : Dword) : Eng Nat := fun s =>
  if s.stepwise then match s.answered a.toNat 0 .rd with
    | some (x, s) => .ok (x.getD 0, s)
    | none => .ok (s.counter, s.noteAccess a.toNat 0 .rd (some s.counter) false)
  else .ok (s.counter, s)

/-- The place in a core's store that an address names when the operation first comes here: the same when it goes on. -/
def Eng.found (r : Req) (a : Dword) : Eng (Option Loc) := fun s =>
  let now : Option Nat := match s.place r.core r.tag (raSpace a) (raField a) with | some (.core c _) => some c | _ => none
  let at_ (k : Option Nat) : Option Loc := k.map (fun c => .core c (raOffset a))
  if s.stepwise then match s.answered a.toNat 0 .rd with
    | some (k, s) => .ok (at_ k, s)
    | none => .ok (at_ now, s.noteAccess a.toNat 0 .rd now false)
  else .ok (at_ now, s)

/-- The bytes of a piece at an address (R91). -/
def raPiece (a : Dword) : Nat := match raSpace a with | 1 | 2 => 16 | 3 | 4 => 32 | _ => 8

/-- The parts of n bytes at an offset that lie in one aligned block of w bytes: start and length, relative to the first byte. -/
def Eng.parts (w off n : Nat) : List (Nat × Nat) :=
  if n = 0 then []
  else tab ((off + n - 1) / w - off / w + 1) (fun i =>
    let lo := max off ((off / w + i) * w)
    let hi := min (off + n) ((off / w + i + 1) * w)
    (lo - off, hi - lo))

/-- A piece that is left of access k of a set: len bytes from byte i on, the banks it goes to, whether its place is a strong page or a
register window (R44, R91, R95, R99). -/
structure EngPiece where
  k      : Nat
  x      : EngAcc
  i      : Nat
  len    : Nat
  banks  : List (Nat × Nat × Nat)
  strong : Bool

/-- The pieces of access k: its bytes by the blocks that are performed as one (R91). -/
def EngAcc.pieces (x : EngAcc) (s : State) (k : Nat) : List EngPiece :=
  (Eng.parts (raPiece x.a) (raOffset x.a) x.n).map (fun p =>
    let l := s.place x.r.core x.r.tag (raSpace x.a) (raField x.a)
    let b := match l with
      | some l => banksOf (l.plus p.1) p.2
      | none => (6, 0, [])
    let strong := match l with
      | some (.win _ _) => true
      | some (.glob va) => (s.peekLeaf x.r.port x.r.tag va).any pteStrong
      | _ => false
    { k := k, x := x, i := p.1, len := p.2, banks := b.2.2.map (fun n => (b.1, b.2.1, n)), strong := strong })

/-- The pieces that may be made next of those left, by their place: of the first 16 accesses, those to whose banks no earlier access has
one left, and none after an access that behaves as ordinary (R94, R95, R99). `mine` are the banks of the access at hand, `busy` those of the
accesses before it, n the accesses that may follow, `strong` whether the access at hand behaves as ordinary. -/
def Eng.mayNext : List EngPiece → Nat → Nat → Nat → List (Nat × Nat × Nat) → List (Nat × Nat × Nat) → Bool → List Nat
  | [], _, _, _, _, _, _ => []
  | p :: ps, i, k, n, busy, mine, strong =>
    let same := p.k == k
    if same = false ∧ (n = 0 ∨ strong) then []
    else
      let busy := if same then busy else mine ++ busy
      let rest := Eng.mayNext ps (i + 1) p.k (if same then n else n - 1) busy (p.banks ++ if same then mine else []) p.strong
      if p.banks.any (busy.contains ·) then rest else i :: rest

/-- Which of the pieces that are left is made next: any that may; the same again when the operation goes on (entries 7 and 68). -/
def Eng.pick (l : List EngPiece) : Eng Nat := fun s =>
  match l with
  | [] | [_] => .ok (0, s)
  | p :: _ =>
    match s.answered p.x.a.toNat 0 .rd with
    | some (x, s) => .ok (x.getD 0, s)
    | none =>
      let may := Eng.mayNext l 0 p.k 15 [] [] false
      let (x, s) := s.freeW
      let j := may.getD (x.toNat % may.length) 0
      .ok (j, s.noteAccess p.x.a.toNat 0 .rd (some j) false)

/-- The pieces that are left of a set of accesses, one after another; `begun` are the accesses of which one is made. What each gives to the
answer of its access. -/
def Eng.weave : Nat → List Nat → List EngPiece → Eng (List (Nat × Nat))
  | 0, _, _ => pure []
  | _ + 1, _, [] => pure []
  | fuel + 1, begun, p :: ps => do
    let j ← Eng.pick (p :: ps)
    let q := (p :: ps).getD j p
    let v ← Eng.one (if q.len = q.x.n then q.x else { q.x with part := some (q.i, q.len, !begun.contains q.k) })
    let ys ← Eng.weave fuel (q.k :: begun) ((p :: ps).eraseIdx j)
    pure ((q.k, v % 2 ^ (8 * q.len) * 2 ^ (8 * q.i)) :: ys)

/-- Accesses of class RLX that do not depend on one another, and their answers: in their order, or, where the operation makes its accesses
one by one, piece by piece in any order that R94 and R95 allow (R91, R106, entry 68). -/
def Eng.many (l : List EngAcc) : Eng (List Nat) := fun s =>
  if s.stepwise then (do
    let ps := ((List.range l.length).zip l).flatMap (fun e => e.2.pieces s e.1)
    let ys ← Eng.weave ps.length [] ps
    pure (tab l.length (fun k => (ys.filter (fun y => y.1 == k)).foldl (fun v y => v + y.2) 0)) : Eng (List Nat)) s
  else (l.mapM Eng.one) s

/-- One access of n bytes: whole, or piece by piece where the operation makes its accesses one by one (R91). -/
def Eng.acc (r : Req) (a : Dword) (n : Nat) (op : POp) : Eng Nat := do pure ((← Eng.many [{ r, a, n, op }]).headD 0)

/-- The width of an engine's accesses at an address: 64 bytes, 8 in a register window (R216, R44). -/
def Eng.unit (a : Dword) : Nat := if raSpace a = 6 then 8 else 64

/-- The accesses that read n bytes from an address. -/
def Eng.reads (r : Req) (a : Dword) (n : Nat) : List EngAcc :=
  (Eng.parts (Eng.unit a) (raOffset a) n).map (fun p => { r, a := raAdd a p.1, n := p.2, op := .rd })

/-- n bytes from an address. -/
def Eng.rdBuf (r : Req) (a : Dword) (n : Nat) : Eng (List Byte) := do
  let l := Eng.reads r a n
  pure ((l.zip (← Eng.many l)).flatMap (fun e => natLE e.2 e.1.n))

/-- The accesses that write bytes from an address, the entries of a list among them: units of up to 64 bytes, so that entries of 8 or 4
bytes that share 16 bytes appear at one instant, the model's choice (R106, entry 68). -/
def Eng.writes (r : Req) (a : Dword) (bs : List Byte) : List EngAcc :=
  (Eng.parts (Eng.unit a) (raOffset a) bs.length).map (fun p =>
    { r, a := raAdd a p.1, n := p.2, op := .wr (leNat ((bs.drop p.1).take p.2)) (fullMask p.2) })

/-- Write bytes from an address. -/
def Eng.wrBuf (r : Req) (a : Dword) (bs : List Byte) : Eng Unit := do
  let _ ← Eng.many (Eng.writes r a bs)
  pure ()

/-- An aligned value of n bytes. -/
def Eng.rdN (r : Req) (a : Dword) (n : Nat) : Eng Nat := Eng.acc r a n .rd
def Eng.rd8 (r : Req) (a : Dword) : Eng Dword := do pure (BitVec.ofNat 64 (← Eng.rdN r a 8))
def Eng.wrN (r : Req) (a : Dword) (n v : Nat) : Eng Unit := do
  let _ ← Eng.acc r a n (.wr (v % 2 ^ (8 * n)) (fullMask n))
  pure ()

/-- Report an engine error to the issuing thread: it takes it before its next issue (R217). -/
def State.report (s : State) (iss : Issuer) (v : Dword) : State :=
  s.modUid iss.uid (fun t => { t with reports := t.reports ++ [{ cause := 0x0D, xpc := iss.pc, xval := v }] })

/-- A phase-word address an engine can take: spaces 0x1 to 0x4, 16-byte aligned, with right A (R36, R108). -/
def phaseAddrOk (a : Dword) : Bool :=
  decide (1 ≤ raSpace a ∧ raSpace a ≤ 4) && raListed a && decide (raRights a &&& 1 ≠ 0) && decide (a.toNat % 16 = 0)

/-- The update of an engine to a phase word, 0 for none (R109). -/
def Eng.phase (r : Req) (pw : Dword) (db dn : Nat) : Eng Unit := do
  if pw = 0 then pure ()
  else
    let _ ← Eng.acc r pw 16 (.phase db dn)
    pure ()

/-! ## Waiting engine instructions (R48, R257) -/

/-- A posted answer of the thread's waiting instruction, read with an acquire of its scope: the results are written together, or the
error is taken (R48, R257). -/
def consume (s : State) (p : Posted) (sc : Scope) : Eff := do
  let s ← s.acquire sc
  match p.err with
  | some v => .error (.trapIn (s.modCth (fun t => { t with posted := none })) 0x0D v)
  | none =>
    let s := s.modCth (fun t => { t with
      posted := none
      reports := t.reports ++ (match p.late with | some v => [{ cause := 0x0D, xpc := s.cur.pc, xval := v }] | none => []) })
    done (p.res.foldl (fun s e => writeG s e.1 e.2) s)

/-- Write words into a slot's mailbox from word 0. -/
def Core.post (k : Core) (n : Nat) (ws : List Dword) : Core :=
  { k with mbox := ((List.range ws.length).zip ws).foldl (fun m e => mset 0 (8 * n + e.1) e.2 m) k.mbox }

/-- Deliver an answer to the thread that waits for it: the results of a post are the first words of the slot's mailbox (R48, R60). -/
def State.deliver (s : State) (uid : Nat) (p : Posted) : State :=
  let s := match p.box, s.findUid uid with
    | true, some (c, n) => s.modCore c (fun k => k.post n (p.res.map (fun (e : Fin 24 × Dword) => e.2)))
    | _, _ => s
  s.modUid uid (fun t => { t with posted := some p, wait := match t.wait with | .mail _ => .ready | w => w })

/-- Post a result; the rope handles it returns. -/
def State.addPost (s : State) (iss : Issuer) (p : Posted) (handles : List Dword := []) : State :=
  { s with posts := s.posts ++ [{ iss := iss, post := p, handles := handles }] }

/-- A waiting engine instruction: the kick, a store-release at system scope with the operand registers as they stand; later the post
(R48, R106). -/
def State.kick (s : State) (ins : Instr) (args : Except Halt (List Dword)) (queue : EngOp → State → State) : Eff :=
  match s.cth.posted with
  | some p => consume s p .pkg
  | none => do
    let a ← args
    s.release
    .error (.mail (queue { ins := ins, args := a, iss := s.issuer, next := s.nextPc } s) .engine)

/-- The result of a privileged instruction: the slot's mailbox holds it, and g[d] receives it (R293). -/
def State.gives (s : State) (d : Fin 24) (x : Dword) : State := (writeG s d x).modCore s.cur.core (fun k => k.post s.cur.slot [x])

/-- A privileged instruction: the mode, a release at system scope, the replies, then f, then the acquire (R149, R293). -/
def State.privileged (s : State) (f : State → Eff) : Eff :=
  if ¬ isService s.cur.core then .error (.trap 0x02 (s.baseWord.setWidth 64))
  else do
    s.release
    if ¬ s.returned s.cth.uid then .error (.wait s .drain)
    else
      let (s, tgt) ← f s
      .ok (s.invalidate .sys, tgt)

/-! ## Running an operation (R106, R348, R349, R362, entry 68) -/

/-- What a step of an operation comes to: it ends, it is refused, or it has made accesses and goes on later: at once, when its page is
there, when it has what it waits for: tokens, the end of a hold, room. -/
inductive Ran (α : Type) where
  | done (s : State) (x : α)
  | refused (s : State) (v : Dword)
  | more (s : State) (t : List Made)
  | paused (s : State) (t : List Made) (k : PageKey)
  | again (s : State) (t : List Made) (p : Poll)

/-- An operation that has made the accesses of a trail makes one more, or ends where it has made them all. -/
def Eng.step (s : State) (t : List Made) (poison : List PageKey) (e : Eng α) : Ran α :=
  match e (s.begins t true) with
  | .ok (x, s') => .done { s' with cur := s.cur } x
  | .error (.refused _ v) => .refused s v
  | .error (.paused s' k reason) => .paused (s'.request k reason true) t k
  | .error (.again _ p) => .again s t p
  | .error (.need free made x) =>
    match x.perform { s with free := free } poison with
    | .ok s v => .more (s.afterWrite x.op) (made ++ [x.made (some v)])
    | .fail s _ => .more s (made ++ [x.made none])
    | .page s k reason => .paused (s.request k reason true) (made ++ x.pause) k
    | .again s p => .again s made p

/-- An operation that has made the accesses of a trail runs: to its end in this step, where no access of it has to wait; else one access
further (entry 68). One that is refused within one step leaves nothing but what the device recorded (R217, R257). -/
def Eng.run (s : State) (t : List Made) (poison : List PageKey) (e : Eng α) (split : Bool := s.cur.split) : Ran α :=
  if split = true ∨ poison ≠ [] then Eng.step s t poison e
  else match e (s.begins t false) with
    | .ok (x, s') => .done { s' with cur := s.cur } x
    | .error (.refused s' v) => if t = [] then .refused (s.keepLog s') v else Eng.step s t poison e
    | _ => Eng.step s t poison e

/-- A piece of work of one access, or of more that are made in one step. -/
def Eng.now (s : State) (e : Eng α) : Ran α :=
  match e (s.begins [] false) with
  | .ok (x, s') => .done { s' with cur := s.cur } x
  | .error (.refused s' v) => .refused { s' with cur := s.cur } v
  | .error (.paused s' k reason) => .paused ({ s' with cur := s.cur }.request k reason true) [] k
  | .error (.again s' p) => .again { s' with cur := s.cur } [] p
  | .error (.need _ _ _) => .again s [] .drain

/-- The thread at hand keeps what its instruction has done. -/
def State.keepTrail (s : State) (t : List Made) : State := s.modCth (fun x => { x with trail := t, poisoned := none })

/-- A program run for a privileged instruction that does not end in this step (R300, R348). -/
def Ran.priv (r : Ran α) (f : State → α → Eff) (refused : State → Eff) : Eff :=
  match r with
  | .done s x => f s x
  | .refused s _ => refused s
  | .more s t => .error (.wait (s.keepTrail t) .more)
  | .paused s t k => .error (.park (s.keepTrail t) k)
  | .again s t p => .error (.wait (s.keepTrail t) p)

/-- A program of the device run for a privileged instruction: a page it needs is requested for a flow and its thread waits parked, and
after a request answered with poisoned data the access fails (R300, R348, R349). -/
def Eng.forPriv (s : State) (e : Eng α) (f : State → α → Eff) (refused : State → Eff) : Eff :=
  (Eng.run s s.cth.trail s.cth.poisoned.toList e).priv f refused

/-- The operation at the head of an engine's queue, or at any place of it, runs: `put` puts what is left of it back (R48, R106, R348). -/
def EngOp.run (o : EngOp) (s : State) (put : State → Option EngOp → State) (e : Eng α) (ends : State → α → State)
    (refused : State → Dword → State) : State :=
  match Eng.run s o.trail o.poison.toList e with
  | .done s x => ends (put s none) x
  | .refused s v => refused (put s none) v
  | .more s t => put s (some { o with trail := t, poison := none })
  | .paused s t k => put s (some { o with trail := t, paused := some k, poison := none })
  | .again s t _ => put s (some { o with trail := t })

/-! ## Steps of the device that make accesses (R300, R348, R349) -/

/-- What a step of the scheduler, or a packet from outside, comes to. -/
inductive Sched (α : Type) where
  | done (s : State) (x : α)
  | refused (s : State) (v : Dword)
  | waits (s : State)

/-- What a step of the scheduler that waits leaves: itself among those that wait, at its place there. -/
def State.keepWaiter (s : State) (w : Waiter) : State :=
  { s with waits := if s.waits.any (fun x => x.who == w.who) then s.waits.map (fun x => if x.who == w.who then w else x) else s.waits ++ [w] }

/-- A step that waited waits no more. -/
def State.dropWaiter (s : State) (who : Instr) : State := { s with waits := s.waits.filter (fun w => w.who != who) }

/-- A step has begun: it waits, between two of its accesses or for a page. -/
def State.begun (s : State) (who : Instr) : Bool := s.waits.any (fun w => w.who == who)

/-- Run a step of the scheduler, or the operation of a packet: it happens in one step, or it waits as a paused flow, once for each page that
is not resident, what it has done staying done; a page whose request is answered with poisoned data fails the access that waited for it
(R300, R348, R349). -/
def State.flow (s : State) (who : Instr) (e : Eng α) (graph : Option Nat := none) (split : Bool := s.cur.split) : Sched α :=
  let new : Waiter := { who := who, key := none, paused := false, poison := false, graph := graph }
  let w := (s.waits.find? (fun w => w.who == who)).getD new
  if w.paused then .waits s
  else match Eng.run s w.trail (if w.poison then w.key.toList else []) e split with
    | .done s x => .done (s.dropWaiter who) x
    | .refused s v => .refused (s.dropWaiter who) v
    | .more s t | .again s t _ => .waits (s.keepWaiter { new with trail := t })
    | .paused s t k => .waits (s.keepWaiter { new with key := some k, paused := true, trail := t })

end Sys2Proof.Machine
end

