-- ==== Sys2Proof/Machine/Fetch.lean ====
section
/-! DEFINITION. Fetching a group through sg0 and the slot's fetch buffer, and what becomes of it (R33, R72, R105, R131 to R133,
R148). -/

namespace Sys2Proof.Machine

/-- A byte of core store through a fetch buffer: a byte that is not held refills the buffer with its aligned 16-byte block. -/
def fetchByte (m : Memory) (b : Option (Nat × List Byte)) (a : Nat) : Byte × Option (Nat × List Byte) :=
  let blk := a / 16 * 16
  match b with
  | some (k, bs) => if k = blk then (bs.getD (a % 16) 0, b) else (rdB m a, some (blk, rdBytes m blk 16))
  | none => (rdB m a, some (blk, rdBytes m blk 16))

/-- A 16-bit word, little-endian (R131). -/
def fetchWord (m : Memory) (b : Option (Nat × List Byte)) (a : Nat) : Half × Option (Nat × List Byte) :=
  let (x, b) := fetchByte m b (a % 0x80000)
  let (y, b) := fetchByte m b ((a + 1) % 0x80000)
  (BitVec.ofNat 16 (x.toNat + 256 * y.toNat), b)

/-- The words of the group at an address: prefix words and the first base word, at most five words, and none that passes the
limit. `room` bytes lie below the limit. -/
def fetchGroup (m : Memory) (a room : Nat) (b : Option (Nat × List Byte)) : Nat → List Half × Option (Nat × List Byte)
  | 0 => ([], b)
  | n + 1 =>
    if room < 2 then ([], b)
    else
      let (w, b) := fetchWord m b a
      if isPrefixWord w then
        let (ws, b) := fetchGroup m (a + 2) (room - 2) b n
        (w :: ws, b)
      else ([w], b)

/-- What an issue does next: the slot's turn is over in this state, or an operation is executed in it. -/
inductive Issued where
  | over (s : State)
  | run (s : State) (i : Instr)

/-- The state that holds the group being issued. -/
def State.atGroup (s : State) (c n : Nat) (ws : List Half) (len : Nat) : State :=
  { s with cur := { s.cur with core := c, slot := n, pc := (s.thread c n).pc, glen := len, words := ws } }

/-- The reach of a fetch: an sg0 of space 0x2, 0x4 or 0x6 names a core the thread reaches (R35, R38). -/
def State.fetchReach (s : State) (c : Nat) (g : Seg) (pc : Nat) : Bool :=
  let sp := g.space.toNat
  if sp = 2 ∨ sp = 4 ∨ sp = 6 then
    match s.place c (s.core c).tag.val sp (fieldAdd sp g.base.toNat pc) with
    | some l => inReach c (some l)
    | none => false
  else true

/-- Fetch and decode the next group of a slot (R33, R35, R133, R148). The model's choices: a group that passes the end of the local segment
raises segment escape before any reason of R148, and the trap of sg0 comes before segment escape where both are due (entry 86); a context
that SLOTLD has restored on a core that does not hold the segment of its address raises segment escape at its first fetch (R72, entry 84). -/
def State.fetch (s : State) (c n : Nat) : Issued :=
  let t := s.thread c n
  let g := t.sg[0]
  let pc := t.pc.toNat
  if g.rights.toNat / 2 % 2 = 0 then .run (s.atGroup c n [] 1) (.instructionFetchFault true)
  else if g.limit.toNat < pc + 2 then .run (s.atGroup c n [] 1) (.instructionFetchFault false)
  else if ¬ s.fetchReach c g pc then .run (s.atGroup c n [] 1) (.instructionFetchFault true)
  else
    let (ws, b) := fetchGroup (s.core c).mem (g.base.toNat + pc) (g.limit.toNat - pc) t.fbuf 5
    let s := s.setThread c n { t with fbuf := b }
    if ¬ s.inLocal c t pc (2 * ws.length) then
      -- the group does not lie wholly inside the local segment (R72)
      let s := s.atGroup c n ws ws.length
      .over (s.trapHere 0x0A t.pc)
    else
      match decode (isGateway c) ws with
      | .ok (i, len) => .run (s.atGroup c n ws len) i
      | .error e => .run (s.atGroup c n ws (max 1 (min ws.length (e.idx + 1)))) (.illegalInstruction e.word e.idx e.reason)

/-- The words of the group a slot would issue next. -/
def State.groupLen (s : State) (c n : Nat) : Nat :=
  let t := s.thread c n
  let g := t.sg[0]
  max 1 (fetchGroup (s.core c).mem (g.base.toNat + t.pc.toNat) (g.limit.toNat - t.pc.toNat) t.fbuf 5).1.length

/-- The thread is at a group boundary: it may issue, or take a report of an earlier access or engine operation (R64, R100, R217,
R316). -/
def Thread.atBoundary (t : Thread) : Bool :=
  (match t.ctl with | .run => true | _ => false) && (match t.wait with | .ready => true | .poll _ => true | _ => false) && t.trail.isEmpty

/-- Take the oldest report of a thread before its next issue; XSTAT.resume names the group at which it is taken (R316). -/
def State.takeReport (s : State) (c n : Nat) : State :=
  let t := s.thread c n
  match t.reports with
  | r :: rs =>
    let s := { s with net := s.net.filter (fun a => !(a.reported && a.iss.uid == t.uid)) }
    (s.modThread c n (fun t => { t with reports := rs })).takeTrap c n r.cause r.xval r.xpc t.pc (s.groupLen c n) false
  | [] => s

/-- The trap of an illegal group (R148). -/
def execIllegalInstruction (w : Half) (idx reason : Nat) (s : State) : Host.Outcome State Fault Refusal :=
  finish s (.error (.trap 0x01 (illegalVal w idx reason)))

/-- The trap of a fetch that sg0 refuses, for its rights or its reach: XPC and XVAL hold the group's first address (R33, R35). -/
def execInstructionFetchFault (rights : Bool) (s : State) : Host.Outcome State Fault Refusal :=
  finish s (.error (.trap (if rights then 0x04 else 0x03) s.cur.pc))

end Sys2Proof.Machine
end

