-- ==== Sys2Proof/Machine/CopyI.lean ====
section
/-! DEFINITION. COPY, COPY2D, NOTICE, the copy streamers and copy engines (R215 to R220, R229). -/

namespace Sys2Proof.Machine

/-- COPY: the group of four registers kicks the streamer beside the source (R215, R216). -/
def execCopy (d : Fin 24) (swz : Fin 8) (s : State) : Host.Outcome State Fault Refusal :=
  finish s (do
    s.release
    let g ← readGroup s d 4
    let cnt := (g.getD 2 0).toNat
    let c : Copy := {
      kind := .copy, iss := s.issuer, port := cluOf s.cur.core, dst := g.getD 0 0, src := g.getD 1 0, cnt := cnt
      pws := [g.getD 3 0], rows := 1, dstr := 0, sstr := 0, swz := swz.val, line := cnt / 8, issued := s.counter }
    done { s with copies := s.copies ++ [c] })

/-- COPY2D: the group of six registers (R215, R216). -/
def execCopy2d (d : Fin 24) (swz : Fin 8) (s : State) : Host.Outcome State Fault Refusal :=
  finish s (do
    s.release
    let g ← readGroup s d 6
    let strides := (g.getD 5 0).toNat
    let c : Copy := {
      kind := .copy, iss := s.issuer, port := cluOf s.cur.core, dst := g.getD 0 0, src := g.getD 1 0, cnt := (g.getD 2 0).toNat
      pws := [g.getD 3 0], rows := (g.getD 4 0).toNat, dstr := bits strides 63 32, sstr := bits strides 31 0, swz := swz.val
      line := (g.getD 2 0).toNat, issued := s.counter }
    done { s with copies := s.copies ++ [c] })

/-- One of a partition's four reserved entries of a notice queue is free (R219). -/
def noticeOwn (q : List Copy) (tag : Nat) : Bool := decide (q.countP (fun c => c.own && c.iss.tag == tag) < 4)

/-- Room in a copy engine's notice queue: one of the partition's four reserved entries, else one of the twelve shared (R219). -/
def noticeRoom (q : List Copy) (tag : Nat) : Bool := noticeOwn q tag || decide (q.countP (fun c => !c.own) < 12)

/-- NOTICE: a release, then an entry of the receiving cluster's queue (R219). A destination that names no cluster goes to the
issuer's own copy engine, which refuses it (entry 9). One whose link is down never reaches its engine, and fails as an engine operation does
(R217, R369), with XVAL its destination (entry 89). -/
def execNotice (d : Fin 24) (s : State) : Host.Outcome State Fault Refusal :=
  finish s (do
    s.release
    let g ← readGroup s d 5
    let dst := g.getD 0 0
    let k := match raSpace dst, s.place s.cur.core s.ctag (raSpace dst) (raField dst) with
      | 2, some (.core c _) => cluOf c
      | 4, some (.clu k _) => k
      | _, _ => cluOf s.cur.core
    let c : Copy := {
      kind := .notice, iss := s.issuer, port := k, dst := dst, src := g.getD 1 0, cnt := (g.getD 2 0).toNat
      pws := [g.getD 4 0, g.getD 3 0], rows := 1, dstr := 0, sstr := 0, swz := 0, issued := s.counter
      own := noticeOwn (s.clu k).notices s.ctag, home := some (cluPkg k) }
    if ¬ s.linked (cluPkg k) then done (s.report s.issuer dst)
    else if noticeRoom (s.clu k).notices s.ctag then done (s.modClu k (fun x => { x with notices := x.notices ++ [c] }))
    else .error (.wait s .room))

/-- NOTICE_PULL: the copy engine of cluster k starts a pull, up to four at once, and frees the entry (R220). -/
def execNoticePull (k : Nat) (s : State) : Host.Outcome State Fault Refusal :=
  event s (match (s.clu k).notices with
    | c :: cs =>
      if s.copies.countP (fun x => x.kind = .notice ∧ x.port = k) < 4 then
        let s := s.modClu k (fun x => { x with notices := cs })
        some { s with copies := s.copies ++ [c] }
      else none
    | [] => none)

/-- The request of a copy's access at an address, by its name among those of the thread's life (R363). -/
def Copy.reqAt (c : Copy) (a : Nat) : Req :=
  { core := c.iss.core, port := c.port, tag := c.iss.tag, thr := false, kind := 1, unit := idxOf c.iss.core, uid := c.iss.uid,
    poison := c.poison, id := 8 * (1 + c.issued * 2 ^ 65 + a), home := c.home }

/-- The request of a copy's other accesses. -/
def Copy.req (c : Copy) : Req := c.reqAt 0

/-- The streamer a copy was kicked to: that of the source's core store, eight-bank group of cluster store, or channel group of the
frame (R216); one for each place a source names that has none. -/
def State.streamer (s : State) (c : Copy) : Nat × Nat × Nat :=
  match s.place c.iss.core c.iss.tag (raSpace c.src) (raField c.src) with
  | some (.core k _) => (0, k, 0)
  | some (.clu k a) => (1, k, a / 256 % 8)
  | some (.glob va) => (match s.peek c.port c.iss.tag va with
      | some (x, big) => let (pkg, pa) := leafPhys x big va; (2, pkg, pa / 0x1800000000 * 8 + pa / 4096 % 8)
      | none => (3, 0, 0))
  | some (.win k _) => (4, k, 0)
  | _ => (5, 0, 0)

/-- The package of a copy's streamer, or of the receiving copy engine (R216, R220). -/
def State.copyHome (s : State) (c : Copy) : Nat :=
  if c.kind = .notice then cluPkg c.port
  else match s.streamer c with
    | (0, k, _) | (4, k, _) => pkgOf k
    | (1, k, _) => cluPkg k
    | (2, pkg, _) => pkg
    | _ => s.boot.pkg

/-- The bytes a copy's destination takes: the tile with its header where a swizzle is written (R229). -/
def Copy.dstBytes (c : Copy) : Nat :=
  if c.swz ≠ 0 then 16 + c.rows * c.cnt else (c.rows - 1) * c.dstr + c.cnt
def Copy.srcBytes (c : Copy) : Nat := (c.rows - 1) * c.sstr + c.cnt

/-- A range of an address stays inside its space (R36). -/
def raFits (a : Dword) (n : Nat) : Bool := decide (raOffset a + n ≤ spaceExtent (raSpace a))

/-- An address of a copy that names a space with a right. -/
def copyAddrOk (a : Dword) (right : Nat) : Bool :=
  decide (1 ≤ raSpace a ∧ raSpace a ≤ 6) && raListed a && decide (raRights a &&& right ≠ 0)

/-- What R36, R216, R217, R220 and R229 refuse before any access: the address concerned. The spec leaves open, and the model chooses
(entry 89), which of several grounds is reported, here the first in this order; that a count or a product too large names the destination;
that a register window is copied in aligned units of 8 bytes alone; and that no row at all does not spare a bad address, right or count. -/
def Copy.refusal (c : Copy) : Option Dword :=
  let notice : Bool := c.kind == .notice
  let node : Bool := match c.kind with | .node _ _ => true | _ => false
  if ¬ copyAddrOk c.dst 4 ∨ (notice ∧ raSpace c.dst ≠ 2 ∧ raSpace c.dst ≠ 4) then some c.dst
  else if ¬ copyAddrOk c.src 8 ∨ (notice ∧ raSpace c.src = 6) then some c.src
  else if node ∧ (raSpace c.dst = 1 ∨ raSpace c.dst = 3) then some c.dst
  else if node ∧ (raSpace c.src = 1 ∨ raSpace c.src = 3) then some c.src
  else match c.pws.find? (fun p => p != 0 && !phaseAddrOk p) with
    | some p => some p
    | none =>
      if 2 ^ 32 ≤ c.rows * c.cnt ∨ 2 ^ 32 ≤ c.cnt ∨ (c.swz ≠ 0 ∧ (8 < c.rows ∨ c.line % 128 ≠ 0 ∨ c.cnt % c.line ≠ 0)) then some c.dst
      else if c.rows = 0 ∨ c.cnt = 0 then none
      else if ¬ raFits c.dst c.dstBytes then some c.dst
      else if ¬ raFits c.src c.srcBytes then some c.src
      else if raSpace c.dst = 6 ∧ (raOffset c.dst % 8 ≠ 0 ∨ c.cnt % 8 ≠ 0 ∨ (1 < c.rows ∧ c.dstr % 8 ≠ 0)) then some c.dst
      else if raSpace c.src = 6 ∧ (raOffset c.src % 8 ≠ 0 ∨ c.cnt % 8 ≠ 0 ∨ (1 < c.rows ∧ c.sstr % 8 ≠ 0)) then some c.src
      else none

/-- The destination of byte o of row r, from dst: of a swizzled copy that of its line of the tile, where it moves by units of 16 bytes
(R216, R229). -/
def Copy.dstAt (c : Copy) (r o : Nat) : Nat :=
  if c.swz = 0 then r * c.dstr + o
  else
    let i := r + o / c.line
    16 + i * c.line + Nat.xor (o % c.line) (i * c.swz % 8 * 16)

/-- The length of the chunk that starts at byte o of row r: to the end of the row or a 256-byte boundary of dst + o. A swizzled copy is
split as a plain one is, whose row lies dstr bytes after the one before: for a COPY2D the model's reading, its lines lying elsewhere (R216,
R229, entry 89). -/
def Copy.chunk (c : Copy) (r o : Nat) : Nat := min (c.cnt - o) (256 - (raOffset c.dst + r * c.dstr + o) % 256)

/-- The parts of a chunk's bytes with one destination each: start in the chunk, length, destination from dst (R229). -/
def Copy.pieces (c : Copy) (r o n : Nat) : List (Nat × Nat × Nat) :=
  if c.swz = 0 then [(0, n, c.dstAt r o)]
  else (Eng.parts 16 o n).map (fun p => (p.1, p.2, c.dstAt r (o + p.1)))

/-- The header of a tile a swizzled copy writes (R228, R229). A line of 65,536 bytes or more does not fit the columns field, and the spec
does not say what is written then, for COPY as for COPY2D: here its length in units modulo 4,096 (R215, R228, R229, entry 89). -/
def Copy.header (c : Copy) : Nat :=
  let t := raOffset c.dst
  let check := Nat.xor (Nat.xor (t % 65536) (bits t 18 16)) (c.swz * 256)
  check * 2 ^ 48 + c.line / 16 % 4096 * 2 ^ 36 + c.rows * c.cnt / c.line % 16 * 2 ^ 32 + c.swz * 256 + 15

/-- The chunk that begins a tile writes its header first. -/
def Copy.heads (c : Copy) (r o : Nat) : Bool := decide (c.swz ≠ 0 ∧ r = 0 ∧ o = 0)

/-- Move the chunk of n bytes at byte o of row r (R216). -/
def Copy.move (c : Copy) (r o n : Nat) : Eng Unit := do
  if c.heads r o then Eng.wrN c.req c.dst 8 c.header
  let bs ← Eng.rdBuf c.req (raAdd c.src (r * c.sstr + o)) n
  (c.pieces r o n).forM (fun p => Eng.wrBuf c.req (raAdd c.dst p.2.2) ((bs.drop p.1).take p.2.1))

/-- The byte an address names now, for whoever may read it. -/
def State.peekByte (s : State) (r : Req) (a : Dword) : Option Byte :=
  match s.place r.core r.tag (raSpace a) (raField a) with
  | some (.core c x) => if (s.ejects r.tag (.core c x) 1).isNone then some (rdB (s.core c).mem x) else none
  | some (.clu c x) => if (s.ejects r.tag (.clu c x) 1).isNone then some (rdB (s.clu c).mem x) else none
  | some (.glob va) => (match s.peek r.port r.tag va with
      | some (x, big) =>
        let (pkg, pa) := leafPhys x big va
        (match physLoc pkg pa with
         | .kns pkg pa =>
           if pteRights x &&& 8 ≠ 0 ∧ ¬ ptePoison x ∧ ¬ s.badAt pkg (pa / 8 * 8) 8 then some (rdB s.kns (knsKey pkg pa)) else none
         | _ => none)
      | none => none)
  | _ => none

/-- Put a byte where an address names one that the writer may write, with all a write does there; not on a page that a migration holds (R98,
R351, R372). -/
def State.pokeByte (s : State) (r : Req) (a : Dword) (b : Byte) : State :=
  let put (l : Loc) : State := match s.performAt r l 1 (.wr b.toNat 1) with | .ok s _ => s | _ => s
  match s.place r.core r.tag (raSpace a) (raField a) with
  | some (.glob va) => (match s.peek r.port r.tag va with
      | some (x, big) =>
        let (pkg, pa) := leafPhys x big va
        (match physLoc pkg pa with
         | .kns pkg pa => if pteRights x &&& 4 ≠ 0 ∧ ¬ ptePoison x ∧ ¬ s.migHeld r.tag va (.wr b.toNat 1) then put (.kns pkg pa) else s
         | _ => s)
      | none => s)
  | some (.win _ _) | none => s
  | some l => if (s.ejects r.tag l 1).isNone then put l else s

/-- A destination byte of a chunk in flight at a failure: its old value or the new one, as a free bit says (R217, entry 7). -/
def State.mixByte (s : State) (r : Req) (dst src : Dword) : State :=
  let (b, s) := s.freeB
  match (if b then s.peekByte r src else none) with
  | some y => s.pokeByte r dst y
  | none => s

/-- The chunks a copy may have in flight from (r, o) on, n of them at most. -/
def Copy.ahead (c : Copy) (r o : Nat) : Nat → List (Nat × Nat × Nat)
  | 0 => []
  | n + 1 =>
    if c.rows ≤ r ∨ c.cnt = 0 then []
    else
      let l := c.chunk r o
      (r, o, l) :: (if o + l < c.cnt then c.ahead r (o + l) n else c.ahead (r + 1) 0 n)

/-- The chunks that may move next, up to eight in flight with those on their way or not yet counted (R216). -/
def Copy.chunks (c : Copy) : List (Nat × Nat × Nat) :=
  c.skip ++ c.ahead c.row c.off (8 - c.uncounted.length - c.moving.length - c.skip.length)

/-- The copy once the chunk at place j of `chunks` is on its way: those before it are passed over (R218). -/
def Copy.taken (c : Copy) (j : Nat) : Copy :=
  if j < c.skip.length then { c with skip := ldel c.skip j }
  else
    let new := c.ahead c.row c.off (j - c.skip.length + 1)
    match new.getLast? with
    | some (r, o, n) =>
      let d : Copy := { c with skip := c.skip ++ new.dropLast }
      if o + n < c.cnt then { d with row := r, off := o + n } else { d with row := r + 1, off := 0 }
    | none => c

/-- The destination bytes of the chunks in flight at a failure that are not written yet, left in a mix of old and new values (R217): of each
chunk the parts, with their place in it and from dst. -/
def State.scramble (s : State) (c : Copy) : State :=
  (c.chunks.map (fun k => (k.1, k.2.1, c.pieces k.1 k.2.1 k.2.2)) ++ c.moving.map (fun k => (k.row, k.off, k.wr))).foldl (fun s k =>
    k.2.2.foldl (fun s p =>
      (List.range p.2.1).foldl (fun s b =>
        s.mixByte c.req (raAdd c.dst (p.2.2 + b)) (raAdd c.src (k.1 * c.sstr + k.2.1 + p.1 + b))) s) s) s

/-- A copy that is refused or fails leaves its engine; a copy node's attempt faults (R217, R302). -/
def State.copyFails (s : State) (i : Nat) (c : Copy) (v : Dword) : State :=
  let s := { s with copies := ldel s.copies i }
  match c.kind with
  | .node nid att => s.faultNode nid att 0x0D 0 v none
  | _ => s.report c.iss v

/-- What an access of copy i leaves: the copy as it then stands, or its failure, pause or wait; p is the copy as a pause leaves it (R217,
R348, R362). -/
def Ran.copy (i : Nat) (c : Copy) (r : Ran Copy) (p : Copy := c) : State :=
  match r with
  | .done s c => { s with copies := lset s.copies i c }
  | .refused s v => (s.scramble c).copyFails i c v
  | .paused s _ k => { s with copies := lset s.copies i { p with paused := some k } }
  | .more s _ | .again s _ _ => s

/-- The chunk of n bytes at (r, o), to be moved piece by piece: the aligned parts of its reads and of its writes (R91, R216). -/
def Copy.chunkAt (c : Copy) (r o n : Nat) : Chunk :=
  let w (a : Dword) : Nat := match raSpace a with | 1 | 2 => 16 | 3 | 4 => 32 | _ => 8
  { row := r, off := o, len := n, rd := Eng.parts (w c.src) (raOffset c.src + r * c.sstr + o) n
    wr := (c.pieces r o n).flatMap (fun p => (Eng.parts (w c.dst) (raOffset c.dst + p.2.2) p.2.1).map (fun q =>
      (p.1 + q.1, q.2, p.2.2 + q.1))) }

/-- The parts of a chunk that can be written: every byte of theirs is read. -/
def Chunk.ready (k : Chunk) : List (Nat × Nat × Nat) :=
  k.wr.filter (fun p => (List.range p.2.1).all (fun b => k.buf.any (fun e => e.1 == p.1 + b)))

/-- The name of the aligned 64-byte access that part i of a moving chunk belongs to, from a base: read or write, and its block. -/
def blockKey (base : Dword) (i : Nat) (write : Bool) : Bool × Nat := (write, raOffset (raAdd base i) / 64)

/-- One piece of a moving chunk: n bytes at place i from `base`, of an access to aligned 64 bytes whose parts all are `parts`. The first of
its pieces is checked and paid for as the whole access (R91, R216, R335, R362). -/
def Chunk.acc (k : Chunk) (c : Copy) (base : Dword) (parts : List (Nat × Nat)) (i n : Nat) (data : Option Nat) :
    Eng (Nat × Chunk) := do
  let block (i : Nat) : Nat := (blockKey base i data.isSome).2
  let key := blockKey base i data.isSome
  let r := c.reqAt (2 * (raAdd base i).toNat + b2n data.isSome)
  let op (d m : Nat) : POp := match data with | some _ => .wr d m | none => .rd
  if k.paid.contains key then do
    let v ← Eng.one { r := { r with again := true }, a := raAdd base i, n := n, op := op (data.getD 0) (fullMask n) }
    pure (v, k)
  else do
    let own := parts.filter (fun p => block p.1 == block i)
    let lo := own.foldl (fun m p => min m p.1) i
    let hi := own.foldl (fun m p => max m (p.1 + p.2)) (i + n)
    let mask := own.foldl (fun m p => m ||| fullMask p.2 * 2 ^ (p.1 - lo)) (fullMask n * 2 ^ (i - lo))
    let v ← Eng.one {
      r := r, a := raAdd base lo, n := hi - lo, op := op (data.getD 0 * 2 ^ (8 * (i - lo))) mask, part := some (i - lo, n, true) }
    pure (v, { k with paid := k.paid ++ [key] })

/-- One piece of a moving chunk: part j of those to be read, then of those that can be written. -/
def Copy.piece (c : Copy) (k : Chunk) (j : Nat) : Eng Chunk := do
  match k.rd[j]? with
  | some p => do
    let (v, k) ← k.acc c (raAdd c.src (k.row * c.sstr + k.off)) k.rd p.1 p.2 none
    pure { k with rd := ldel k.rd j, buf := k.buf ++ ((List.range p.2).map (p.1 + ·)).zip (natLE v p.2) }
  | none => match k.ready[j - k.rd.length]? with
    | some p => do
      let bs := (List.range p.2.1).map (fun b => ((k.buf.find? (fun e => e.1 == p.1 + b)).map (fun (e : Nat × Byte) => e.2)).getD 0)
      let (_, k) ← k.acc c c.dst (k.wr.map (fun q => (q.2.2, q.2.1))) p.2.2 p.2.1 (some (leNat bs))
      pure { k with wr := k.wr.filter (· != p) }
    | none => pure k

/-- Pieces of a chunk that may move now, as far as its own bytes go. -/
def Chunk.moves (k : Chunk) : Nat := k.rd.length + k.ready.length

/-! ## The order of a copy's accesses (R95, R99, R106, R216) -/

/-- A part of a chunk that is still to be read or written: the access it belongs to, its address, its bytes. -/
structure CopyPart where
  key : Bool × Nat
  a   : Dword
  n   : Nat

/-- The part of a chunk that reads bytes p of it. -/
def Copy.rdPart (c : Copy) (k : Chunk) (p : Nat × Nat) : CopyPart :=
  let base := raAdd c.src (k.row * c.sstr + k.off)
  ⟨blockKey base p.1 false, raAdd base p.1, p.2⟩

/-- The part of a chunk that writes bytes p of it. -/
def Copy.wrPart (c : Copy) (p : Nat × Nat × Nat) : CopyPart := ⟨blockKey c.dst p.2.2 true, raAdd c.dst p.2.2, p.2.1⟩

/-- What is left of a chunk, in program order: its reads, then its writes. -/
def Copy.left (c : Copy) (k : Chunk) : List CopyPart := k.rd.map (c.rdPart k) ++ k.wr.map c.wrPart

/-- A chunk that is not begun, with the header before it where it writes one; the order of its accesses. -/
def Copy.whole (c : Copy) (r o n : Nat) : List CopyPart :=
  (if c.heads r o then [⟨blockKey c.dst 0 true, c.dst, 8⟩] else []) ++ c.left (c.chunkAt r o n)

/-- The banks a part goes to, and whether its place is a strong page or a register window (R44, R99). -/
def State.partPlace (s : State) (c : Copy) (x : CopyPart) : (Nat × Nat × List Nat) × Bool :=
  match s.place c.iss.core c.iss.tag (raSpace x.a) (raField x.a) with
  | none => ((6, 0, []), false)
  | some l => (banksOf l x.n, match l with
    | .win _ _ => true
    | .glob va => (s.peekLeaf c.port c.iss.tag va).any pteStrong
    | _ => false)

/-- A part waits for an earlier access's part: they share a bank, or the earlier one behaves as ordinary. -/
def State.partWaits (s : State) (c : Copy) (x y : CopyPart) : Bool :=
  let (b, _) := s.partPlace c x
  let (b', strong) := s.partPlace c y
  strong || (b.1 == b'.1 && b.2.1 == b'.2.1 && b.2.2.any (b'.2.2.contains ·))

/-- What is left of the chunks before the one at (r, o): those that move, and those passed over or not begun, up to the one at place m of
`chunks`. -/
def Copy.earlier (c : Copy) (r o m : Nat) : List CopyPart :=
  let before (r' o' : Nat) : Bool := decide (r' < r ∨ (r' = r ∧ o' < o))
  ((c.moving.filter (fun k => before k.row k.off)).flatMap c.left) ++
    ((c.chunks.take m).filter (fun k => before k.1 k.2.1)).flatMap (fun k => c.whole k.1 k.2.1 k.2.2)

/-- A chunk may move whole: nothing of it waits for an earlier chunk. -/
def State.chunkFree (s : State) (c : Copy) (j : Nat) (k : Nat × Nat × Nat) : Bool :=
  (c.earlier k.1 k.2.1 j).all (fun y => (c.whole k.1 k.2.1 k.2.2).all (fun x => !s.partWaits c x y))

/-- A part of a moving chunk may move: nothing that is left of an earlier access, of an earlier chunk or of its own, keeps it. -/
def State.partFree (s : State) (c : Copy) (k : Chunk) (x : CopyPart) : Bool :=
  let order := (c.whole k.row k.off k.len).map (fun y => y.key)
  let rank (y : CopyPart) : Nat := order.findIdx (fun q => q == y.key)
  (c.earlier k.row k.off c.skip.length).all (fun y => !s.partWaits c x y) &&
    (c.left k).all (fun y => decide (rank x ≤ rank y) || !s.partWaits c x y)

/-- The moving chunk that piece j of a copy belongs to, its place among them, the piece's place in it. -/
def pieceAt : List Chunk → Nat → Nat → Option (Nat × Chunk × Nat)
  | [], _, _ => none
  | k :: ks, i, j => if k.moves ≤ j then pieceAt ks (i + 1) (j - k.moves) else some (i, k, j)

/-- Part j of a moving chunk. -/
def Copy.partOf (c : Copy) (k : Chunk) (j : Nat) : Option CopyPart :=
  match k.rd[j]? with
  | some p => some (c.rdPart k p)
  | none => (k.ready[j - k.rd.length]?).map c.wrPart

/-- Piece j of a copy may move. -/
def State.pieceFree (s : State) (c : Copy) (j : Nat) : Bool :=
  match pieceAt c.moving 0 j with
  | some (_, k, x) => (c.partOf k x).any (s.partFree c k)
  | none => false

/-- The copy whose piece j has met a page that is not there: the access of the piece, reissued after the page wake, pays again (R362). -/
def Copy.unpay (c : Copy) (j : Nat) : Copy :=
  match pieceAt c.moving 0 j with
  | some (i, k, x) => { c with
      moving := lset c.moving i { k with paid := k.paid.filter (fun b => some b != (c.partOf k x).map (fun y => y.key)) } }
  | none => c

/-- The copy after piece j of its moving chunks; a chunk whose last piece is written waits for its count. -/
def Copy.movePiece (c : Copy) (j : Nat) : Eng Copy := do
  match pieceAt c.moving 0 j with
  | some (i, k, x) => do
    let k ← c.piece k x
    if k.rd = [] ∧ k.wr = [] then
      pure { c with
        moving := ldel c.moving i, uncounted := c.uncounted ++ [(k.len, c.pws.filter (· != 0))], flying := c.flying ++ [(k.row, k.off)] }
    else pure { c with moving := lset c.moving i k }
  | none => pure c

/-- The place of the first moving chunk in program order, and the number of its first piece. -/
def Copy.firstMoving (c : Copy) : Option (Nat × Nat) :=
  let before (k k' : Chunk) : Bool := decide (k.row < k'.row ∨ (k.row = k'.row ∧ k.off ≤ k'.off))
  let i := c.moving.findIdx (fun k => c.moving.all (before k))
  if i < c.moving.length then some (i, ((c.moving.take i).map Chunk.moves).sum) else none

/-- All the pieces of the first moving chunk that are left. -/
def Copy.finishChunk (c : Copy) (j : Nat) : Nat → Eng Copy
  | 0 => pure c
  | n + 1 => do
    let left := c.moving.length
    let c ← c.movePiece j
    if c.moving.length < left then pure c else c.finishChunk j n

/-- Pieces of a copy's moving chunks. -/
def Copy.pieceCount (c : Copy) : Nat := (c.moving.map Chunk.moves).sum

/-- The chunk at place j of `chunks`, if one more may be in flight (R216). -/
def Copy.next (c : Copy) (j : Nat) : Option (Nat × Nat × Nat) :=
  if c.uncounted.length + c.moving.length < 8 then c.chunks[j]? else none

/-- The work of copy c at place j: a chunk in flight moved whole or, where the move asks for pieces, begun or moved by one piece, in any
order that R95 and R99 allow; a chunk that may not move yet lets the first one go on (R91, R106, R216). -/
def Copy.work (c : Copy) (s : State) (split : Bool) (j : Nat) : Option (Eng Copy) :=
  let pieces := c.pieceCount
  let finish : Option (Eng Copy) := c.firstMoving.map (fun k => c.finishChunk k.2 1024)
  if split then
    if j < pieces then (if s.pieceFree c j then some (c.movePiece j) else none)
    else (c.next (j - pieces)).map (fun k => (do
      if c.heads k.1 k.2.1 then Eng.wrN c.req c.dst 8 c.header
      pure { c.taken (j - pieces) with moving := c.moving ++ [c.chunkAt k.1 k.2.1 k.2.2] } : Eng Copy))
  else match c.next j with
    | some k =>
      if s.chunkFree c j k then some (do
        c.move k.1 k.2.1 k.2.2
        pure { c.taken j with uncounted := c.uncounted ++ [(k.2.2, c.pws.filter (· != 0))], flying := c.flying ++ [(k.1, k.2.1)] })
      else if j = 0 then finish else none
    | none => if j = 0 then finish else none

/-- A piece of work of copy i at place j is done; where a chunk moved whole would have to wait on its way, its first piece is (R348, R362,
entry 68). -/
def State.copyTry (s : State) (i : Nat) (c : Copy) (j : Nat) (e : Eng Copy) : State :=
  if s.cur.split then (Eng.now s e).copy i c (c.unpay j)
  else match Eng.now s e with
    | .paused _ _ _ | .again _ _ _ =>
      let j := if (c.next j).any (s.chunkFree c j) then c.pieceCount + j else (c.firstMoving.map (fun k => k.2)).getD 0
      (match c.work s true j with
       | some e => (Eng.now s e).copy i c (c.unpay j)
       | none => s)
    | .refused s' v => (Ran.refused (s.keepLog s') v).copy i c
    | r => r.copy i c

/-- One step of copy i: the checks when its streamer takes it, which a kick over a link that is down never reaches (XVAL is then its source:
entry 89), then a piece of work on one of the chunks in flight, eight at most and in any order (R216, R218, R369). -/
def State.copyRun (s : State) (i j : Nat) : Option State :=
  match s.copies[i]? with
  | none => none
  | some c =>
    if c.paused.isSome then none
    else if ¬ c.checked then
      if c.kind ≠ .notice ∧ (s.copies.take i).any (fun x => !x.checked && x.kind != .notice && s.streamer x == s.streamer c) then none
      else if ¬ s.linked (s.copyHome c) then some (s.copyFails i c c.src)
      else match c.refusal with
        | some v => some (s.copyFails i c v)
        | none =>
          if c.rows = 0 ∨ c.cnt = 0 then some { s with copies := ldel s.copies i }
          else some { s with copies := lset s.copies i { c with checked := true, home := some (s.copyHome c) } }
    else (c.work s s.cur.split j).map (fun e => s.copyTry i c j e)

/-- COPY_STREAMER_RUN (R216). -/
def execCopyStreamerRun (i j : Nat) (s : State) : Host.Outcome State Fault Refusal := event s (s.copyRun i j)

/-- Every chunk of a copy is moved and counted. -/
def Copy.finished (c : Copy) : Bool :=
  decide (c.rows ≤ c.row) && c.skip.isEmpty && c.moving.isEmpty && c.uncounted.isEmpty

/-- The count of chunk j of copy i, once its stores are acknowledged: R109 on each phase word in order, the receiver's before the
sender's, in one step or in one step each; the last count ends the copy (R106, R216, R220). -/
def State.countWords (s : State) (i j : Nat) (c : Copy) (n : Nat) (split : Bool) : List Dword → State
  | [] =>
    let c := { c with uncounted := ldel c.uncounted j, flying := ldel c.flying j }
    if c.finished then { s with copies := ldel s.copies i } else { s with copies := lset s.copies i c }
  | p :: ps =>
    match Eng.now s (do Eng.phase c.req p n 0; pure c) with
    | .done s c =>
      let c := { c with uncounted := lset c.uncounted j (n, ps) }
      if split ∧ ps ≠ [] then { s with copies := lset s.copies i c } else s.countWords i j c n split ps
    | r => r.copy i c

/-- The count of chunk j of copy i. -/
def State.copyCount (s : State) (i j : Nat) : Option State :=
  match s.copies[i]? with
  | none => none
  | some c =>
    if c.paused.isSome then none
    else (c.uncounted[j]?).map (fun e => s.countWords i j c e.1 s.cur.split e.2)

/-- COPY_CHUNK_COUNT (R216). -/
def execCopyChunkCount (i j : Nat) (s : State) : Host.Outcome State Fault Refusal := event s (s.copyCount i j)

end Sys2Proof.Machine
end

