-- ==== Sys2Proof/Machine/Flags.lean ====
section
/-! DEFINITION. The floating-point flags and control registers, and how the flags of an instruction's lanes are merged, set and
trapped (R11, R12, R122, R125, R180). -/

namespace Sys2Proof.Machine

/-- The flags of FFLG (R122). -/
abbrev Fl := BitVec 7

def fNX : Fl := 1
def fUF : Fl := 2
def fOF : Fl := 4
def fDZ : Fl := 8
def fNV : Fl := 16
def fNF : Fl := 32
def fSAT : Fl := 64

/-- A flag that is raised when a condition holds. -/
def flagIf (b : Bool) (f : Fl) : Fl := if b then f else 0

/-- The code of a rounding mode (R123). -/
def rmCode : RMode → Nat | .rne => 0 | .rtz => 1 | .rup => 2 | .rdn => 3 | .rmm => 4

/-- The rounding mode of a code 0 to 4 (R123). -/
def rmOf : Nat → Option RMode
  | 0 => some .rne | 1 => some .rtz | 2 => some .rup | 3 => some .rdn | 4 => some .rmm | _ => none

/-- The rounding mode of an instruction: its own, or FCTL.rm (R22, R123). -/
def roundMode (s : State) (rm : Option RMode) : RMode := rm.getD s.cth.fctl.rm

/-- FFLG as FGET reads it. -/
def fflgWord (f : Fl) : Dword := f.setWidth 64

/-- FCTL as FGET reads it (R122). -/
def fctlWord (f : Fctl) : Dword := BitVec.ofNat 64 (b2n f.sat8 * 32768 + f.te.toNat * 256 + rmCode f.rm)

/-- FCTL as FSET writes it; none for rm 5 to 7 (R122). -/
def fctlOf (x : Dword) : Option Fctl :=
  (rmOf (bits x.toNat 2 0)).map (fun r => { rm := r, te := BitVec.ofNat 7 (bits x.toNat 14 8), sat8 := bitAt x.toNat 15 })

/-- All flags of an instruction's lanes, merged (R12). -/
def mergeFlags (l : List (Nat × Fl)) : Fl := l.foldl (fun f e => f ||| e.2) 0

/-- The lanes that raised an enabled flag (R12). -/
def trapLanes (te : Fl) (l : List (Nat × Fl)) : Dword :=
  l.foldl (fun m e => if e.2 &&& te = 0 then m else m ||| BitVec.ofNat 64 (2 ^ e.1)) 0

/-- Flag: set the flags with the results, or trap without any effect but the flags (R11, R12, R125). -/
def raiseFlags (s : State) (l : List (Nat × Fl)) : Except Halt State :=
  let f := mergeFlags l
  let te := s.cth.fctl.te
  if f &&& te = 0 then .ok (if f = 0 then s else s.modCth (fun t => { t with fflg := t.fflg ||| f }))
  else .error (.flags f (trapLanes te l))

/-- The lanes an instruction of type width w computes, n of them: all, or those its mask selects; lane 0 in the scalar form. -/
def lanesOf (s : State) (x : P1) (n : Nat) : List Nat :=
  if x.sc then [0] else (List.range n).filter (fun i => active (maskBits s x.mask) i)

/-- A lanewise operation of R180 that forms its results from the active lanes: f gives the bits and the flags of a lane from D, S and
T. D and T are read only if the operation uses them; results are wd bits from sources of ws bits, n lanes in the vector form.
`zero` clears lanes n and above (R188). In the scalar form queues pop in the order d, s, t (R182). -/
def lanewise (s : State) (x : P1) (n ws wd : Nat) (sg zero : Bool) (rd : Bool) (d : Opnd) (src : Src) (t : Option Opnd)
    (f : Nat → Nat → Nat → Nat × Fl) : Eff :=
  atomically s (do
    if x.sc then
      let (a, s1) ← if rd then readO s d else pure (0, s)
      let (b, s2) ← readS s1 src
      let (c, s3) ← match t with | some o => readO s2 o | none => pure (0, s2)
      let r := f a.toNat b.toNat c.toNat
      let s4 ← writeO s3 d (scalarResult sg wd r.1)
      done (← raiseFlags s4 [(0, r.2)])
    else
      let a ← if rd then readLanes s ws d else pure 0
      let b ← readLanesS s ws src
      let c ← match t with | some o => readLanes s ws o | none => pure 0
      let rs := (lanesOf s x n).map (fun i => (i, f (lane ws a i) (lane ws b i) (lane ws c i)))
      match d with
      | .v i =>
        let old := s.cth.v[i.val]
        let old := if zero then BitVec.ofNat 512 (old.toNat % 2 ^ (wd * n)) else old
        done (← raiseFlags (writeV s i (rs.foldl (fun v e => setLane wd v e.1 e.2.1) old)) (rs.map (fun e => (e.1, e.2.2))))
      | _ => done s)

/-- A comparison: one bit of a k register for each active lane, bits n to 63 zero; or 1 or 0 in the scalar form (R185, R191). -/
def compare (s : State) (x : P1) (n w : Nat) (d src t : Opnd) (f : Nat → Nat → Bool × Fl) : Eff :=
  atomically s (do
    if x.sc then
      let (b, s1) ← readO s src
      let (c, s2) ← readO s1 t
      let r := f b.toNat c.toNat
      let s3 ← writeO s2 d (BitVec.ofNat 64 (b2n r.1))
      done (← raiseFlags s3 [(0, r.2)])
    else
      let b ← readLanes s w src
      let c ← readLanes s w t
      let rs := (lanesOf s x n).map (fun i => (i, f (lane w b i) (lane w c i)))
      match d with
      | .k j =>
        let old := (s.cth.k[j.val]).toNat % 2 ^ n
        let new := rs.foldl (fun m e => putBits m e.1 1 (b2n e.2.1)) old
        done (← raiseFlags (writeK s j (BitVec.ofNat 64 new)) (rs.map (fun e => (e.1, e.2.2))))
      | _ => done s)

end Sys2Proof.Machine
end

