-- ==== Sys2Proof/Machine/MemI.lean ====
section
/-! DEFINITION. The memory instructions of page 0 and the vector loads and stores: LD to LEA, fences, VLD to VSCAT (R196, R197, R205
to R213, R101, R102, R104, R112). -/

namespace Sys2Proof.Machine

/-- Bytes of a width. -/
def widthBytes : Width → Nat | .w64 => 8 | .w32 => 4 | .w16 => 2 | .w8 => 1

def rightR : Nat := 8
def rightW : Nat := 4
def rightA : Nat := 1

/-- The offset of a memory operand: g[base] + offset, modulo 2^64 (R206). -/
def memOffset (s : State) (m : MemOp) : Except Halt Dword := (readG s m.base).map (fun b => b + m.off)

/-- The value a load of n bytes writes (R206). -/
def loaded (sx : Bool) (n x : Nat) : Dword := scalarResult sx (8 * n) x

/-- An access of this class and place is relaxed (R99, R44). -/
def State.isRelaxed (s : State) (cls : Cls) (l : Loc) : Bool := cls != .ord && !s.strongPlace l

/-- Issue one relaxed access (R94). -/
def State.goRelaxed (s : State) (cls : Cls) (l : Loc) (n : Nat) (op : POp) (o ra : Dword) (dest : Dest) : Except Halt State :=
  s.issueRelaxed { iss := s.issuer, cls := clsAt ra l cls, dest := dest, pieces := splitPieces l n op o ra }

/-- An instruction issues only when its push can be made (R46). -/
def State.roomFor (s : State) (d : Opnd) : Except Halt Unit := (atomically s (writeO s d 0)).map (fun _ => ())

/-- LD and LDSX (R206, R207). -/
def loadEff (s : State) (d : Opnd) (m : MemOp) (w : Width) (sx : Bool) : Eff := do
  let n := widthBytes w
  s.roomFor d
  let o ← memOffset s m
  let (l, ra) ← s.segCheck m.sg o n rightR (denyWindow n)
  match d, s.isRelaxed m.cls l with
  | .g r, true => done (← s.goRelaxed m.cls l n .rd o ra (.g r n sx))
  | d, _ =>
    let (s1, x) ← s.ordinary l n .rd o ra
    done (← atomically s (writeO s1 d (loaded sx n x)))

/-- ST: the entry of a queue or link is taken when the store completes (R46, R206). -/
def storeEff (s : State) (m : MemOp) (src : Opnd) (w : Width) : Eff := do
  let n := widthBytes w
  let (x, _) ← atomically s (readO s src)
  let o ← memOffset s m
  let (l, ra) ← s.segCheck m.sg o n rightW (denyWindow n)
  let op : POp := .wr (x.toNat % 2 ^ (8 * n)) (fullMask n)
  let s ← if s.isRelaxed m.cls l then s.goRelaxed m.cls l n op o ra .none
    else (s.ordinary l n op o ra).map (fun r => r.1)
  let (_, s) ← readO s src
  done s

/-- LD: zero-extended (R206). -/
def execLd (d : Opnd) (m : MemOp) (w : Width) (s : State) : Host.Outcome State Fault Refusal :=
  finish s (loadEff s d m w false)

/-- LDSX: sign-extended from bit 8n − 1 (R206). -/
def execLdsx (d : Opnd) (m : MemOp) (w : Width) (s : State) : Host.Outcome State Fault Refusal :=
  finish s (loadEff s d m w true)

/-- ST (R206). -/
def execSt (m : MemOp) (o : Opnd) (w : Width) (s : State) : Host.Outcome State Fault Refusal :=
  finish s (storeEff s m o w)

/-- LDACQ: an ordinary load, then an acquire of its scope (R102, R208). -/
def execLdacq (d : Opnd) (m : MemOp) (w : Width) (s : State) : Host.Outcome State Fault Refusal :=
  finish s (do
    let n := widthBytes w
    s.roomFor d
    let o ← memOffset s m
    let (l, ra) ← s.segCheck m.sg o n rightR (denyWindow n)
    let (s1, x) ← s.ordinary l n .rd o ra
    let y := loaded false n x
    s1.thenAcquire m.scope (some (d, y)) (fun s1 => atomically s (writeO s1 d y)))

/-- STREL: a release, then an ordinary store (R102, R208). -/
def execStrel (m : MemOp) (o : Opnd) (w : Width) (s : State) : Host.Outcome State Fault Refusal :=
  finish s (do
    s.release
    storeEff s { m with cls := .ord } o w)

/-! ## Full/empty words (R112, R113, R209) -/

/-- LDFE and STFE name core store through space 0x1 or 0x2 only. -/
def denyFe (sp : Nat) : Option Nat := if sp = 1 ∨ sp = 2 then none else some 0x04

/-- The full/empty bit of the word at a place of core store. Where the base of a segment makes the place unaligned, the spec does not say
which word's bit the access uses: here that of the word of its first byte (R32, entry 21). -/
def State.feBit (s : State) (l : Loc) : Bool :=
  match l with
  | .core c a => (s.core c).full.contains (a / 8)
  | _ => false

def State.setFe (s : State) (l : Loc) (b : Bool) : State :=
  match l with
  | .core c a => s.modCore c (fun k => { k with full := if b then sinsert (a / 8) k.full else k.full.filter (· != a / 8) })
  | _ => s

/-- The word's way is checked before its bit is looked at: a core of another tag answers with the partition error response (R355). -/
def State.feCheck (s : State) (l : Loc) (op : POp) (o ra : Dword) : Except Halt Unit := do
  s.ordinaryMay l 8
  let _ ← (s.route s.req l 8 op).halt o ra

/-- Another running thread waits for the same change of the word's bit, and the thread at hand does not: a change serves one of those that
wait (R113). -/
def State.feTurn (s : State) (l : Loc) (take : Bool) : Bool :=
  let w : Wait := .poll (.fullEmpty l take)
  s.cth.wait != w && s.cores.any (fun e => e.2.slots.any (fun p => p.2.wait == w && p.2.ctl == .run))

/-- The destination is a queue or a link. -/
def pushes : Opnd → Bool
  | .g _ => false
  | _ => true

/-- LDFE: waits for bit = 1, returns the word and clears the bit, then acquires. The read of one that pushes waits for the thread's replies,
so that the push and the change of the bit come together and a trap of the push leaves the bit as it was (R10, entry 31). -/
def ldfeEff (s : State) (d : Opnd) (m : MemOp) : Eff := do
  s.roomFor d
  let o ← memOffset s m
  let (l, ra) ← s.segCheck m.sg o 8 rightR denyFe
  s.feCheck l .rd o ra
  if pushes d = true ∧ s.returned s.cth.uid = false then .error (.wait s .drain)
  else if ¬ s.feBit l ∨ s.feTurn l true then .error (.wait s (.fullEmpty l true))
  else do
    let (s1, x) ← s.ordinary l 8 .rd o ra
    let y : Dword := BitVec.ofNat 64 x
    (s1.setFe l false).thenAcquire m.scope (some (d, y)) (fun s1 => atomically s (writeO s1 d y))

/-- STFE: releases, waits for bit = 0, writes the word and sets the bit. -/
def stfeEff (s : State) (m : MemOp) (src : Opnd) : Eff := do
  let (x, _) ← atomically s (readO s src)
  let o ← memOffset s m
  let (l, ra) ← s.segCheck m.sg o 8 rightW denyFe
  s.release
  let op : POp := .wr x.toNat (fullMask 8)
  s.feCheck l op o ra
  if s.feBit l ∨ s.feTurn l false then .error (.wait s (.fullEmpty l false))
  else do
    let (s, _) ← s.ordinary l 8 op o ra
    let (_, s) ← readO (s.setFe l true) src
    done s

/-- LDFE (R209). -/
def execLdfe (d : Opnd) (m : MemOp) (s : State) : Host.Outcome State Fault Refusal := finish s (ldfeEff s d m)

/-- STFE (R209). -/
def execStfe (m : MemOp) (o : Opnd) (s : State) : Host.Outcome State Fault Refusal := finish s (stfeEff s m o)

/-- A change of the bit serves a waiting LDFE or STFE (R113). -/
def execFullEmptyServe (c n : Nat) (s : State) : Host.Outcome State Fault Refusal :=
  match (s.thread c n).ctl, (s.thread c n).wait with
  | .run, .poll (.fullEmpty _ _) =>
    (match s.fetch c n with
     | .run s' (.ldfe d m) => finish s' (ldfeEff s' d m)
     | .run s' (.stfe m o) => finish s' (stfeEff s' m o)
     | _ => .next s)
  | _, _ => .next s

/-! ## Atomics (R104, R210, R211) -/

/-- AMO and CAS: the old value to g[d], at the reply. -/
def amoEff (s : State) (d : Fin 24) (m : MemOp) (w : Width) (op : POp) : Eff := do
  let n := widthBytes w
  let o ← memOffset s m
  let (l, ra) ← s.segCheck m.sg o n rightA (fun sp => if sp = 6 then some 0x04 else none)
  if s.isRelaxed m.cls l then done (← s.goRelaxed m.cls l n op o ra (.g d n false))
  else do
    let (s, x) ← s.ordinary l n op o ra
    done (writeG s d (loaded false n x))

/-- AMO (R211). -/
def execAmo (d t : Fin 24) (m : MemOp) (w : Width) (op : AmoOp) (s : State) : Host.Outcome State Fault Refusal :=
  finish s (do
    let v ← readG s t
    let _ ← readG s d
    amoEff s d m w (.amo op (v.toNat % 2 ^ (8 * widthBytes w))))

/-- CAS (R211). -/
def execCas (d t : Fin 24) (m : MemOp) (w : Width) (s : State) : Host.Outcome State Fault Refusal :=
  finish s (do
    let v ← readG s t
    let e ← readG s d
    let k := 2 ^ (8 * widthBytes w)
    amoEff s d m w (.cas (e.toNat % k) (v.toNat % k)))

/-! ## Fences (R101, R212) -/

/-- IFENCE: waits until the thread's relaxed accesses are performed and empties the fetch buffer. -/
def execIfence (_scope : Scope) (s : State) : Host.Outcome State Fault Refusal :=
  finish s (do
    s.release
    done (s.modCth (fun t => { t with fbuf := none })))

/-- FENCE.REL: waits until the thread's relaxed accesses are performed, whatever the scope. -/
def execFenceRel (_scope : Scope) (s : State) : Host.Outcome State Fault Refusal :=
  finish s (do
    s.release
    done s)

/-- FENCE.ACQ: waits for the thread's replies, then drops the read buffers of its scope. -/
def execFenceAcq (scope : Scope) (s : State) : Host.Outcome State Fault Refusal :=
  finish s (do done (← s.acquire scope))

/-- FENCE.FULL: release, then acquire. -/
def execFenceFull (scope : Scope) (s : State) : Host.Outcome State Fault Refusal :=
  finish s (do
    s.release
    done (← s.acquire scope))

/-- LEA: a resolved address; no rights, reach or alignment checked (R213). -/
def execLea (d : Fin 24) (m : MemOp) (s : State) : Host.Outcome State Fault Refusal :=
  finish s (do
    let o ← memOffset s m
    let g := s.cth.sg[m.sg.val]
    let sp := g.space.toNat
    if g.limit.toNat ≤ o.toNat then .error (.trap 0x03 o)
    else done (writeG s d (BitVec.ofNat 64 (sp * 2 ^ 60 + g.rights.toNat * 2 ^ 56 + fieldAdd sp g.base.toNat o.toNat))))

/-! ## Vector loads and stores (R196, R197) -/

/-- The bits of the lanes of width w in a list. -/
def laneBits (w : Nat) (l : List Nat) : Vec := l.foldl (fun v i => setLane w v i (2 ^ w - 1)) 0

/-- VLD: one aligned block of 64 bytes to the active lanes, at once or in pieces (R91, R196). -/
def execVld (x : P1) (d : Fin 8) (m : MemOp) (s : State) : Host.Outcome State Fault Refusal :=
  finish s (do
    let o ← memOffset s m
    let (l, ra) ← s.segCheck m.sg o 64 rightR (denyWindow 64)
    let act := lanesOf s x (tyLanes x.ty)
    let keep := ~~~(laneBits (tyWidth x.ty) act)
    if act = [] then done s
    else if s.isRelaxed m.cls l then done (← s.goRelaxed m.cls l 64 .rd o ra (.v d keep))
    else if s.cur.split then s.ordinaryPieces l 64 .rd o ra (.v d keep)
    else do
      let (s, y) ← s.ordinary l 64 .rd o ra
      done (writeV s d ((s.cth.v[d.val] &&& keep) ||| (BitVec.ofNat 512 y &&& ~~~keep))))

/-- VST: the bytes of the active lanes, at once or in pieces (R91, R196). -/
def execVst (x : P1) (m : MemOp) (o : Fin 8) (s : State) : Host.Outcome State Fault Refusal :=
  finish s (do
    let v ← readV s o
    let off ← memOffset s m
    let (l, ra) ← s.segCheck m.sg off 64 rightW (denyWindow 64)
    let k := tyWidth x.ty / 8
    let act := lanesOf s x (tyLanes x.ty)
    let mask := act.foldl (fun a i => a + (2 ^ k - 1) * 2 ^ (k * i)) 0
    if act = [] then done s
    else if s.isRelaxed m.cls l then done (← s.goRelaxed m.cls l 64 (.wr v.toNat mask) off ra .none)
    else if s.cur.split then s.ordinaryPieces l 64 (.wr v.toNat mask) off ra .none
    else do
      let (s, _) ← s.ordinary l 64 (.wr v.toNat mask) off ra
      done s)

/-- The elements of a gather or scatter, by lane, offset, place and resolved address: every active lane checked, lowest first, before any is
performed. -/
def checkElems (s : State) (sg : Fin 8) (n right : Nat) (l : List (Nat × Dword)) : Except Halt (List (Nat × Dword × Loc × Dword)) :=
  l.mapM (fun e => do
    let (p, ra) ← s.segCheck sg e.2 n right (denyWindow n)
    pure (e.1, e.2, p, ra))

/-- The ways of the elements, in lane order, before any is performed: an ordinary one is checked and paid for up to its performing point,
once, and what stops it stops the instruction without effect, but that the elements before one whose page is not there are performed; a
relaxed one is still to be sent (R10, R197, R318, entry 68). The elements as pieces, and the page. -/
def routeElems (n : Nat) (cls : Cls) (op : Nat → POp) :
    State → List (Nat × Dword × Loc × Dword) → Except Halt (State × List Piece × Option PageKey)
  | s, [] => .ok (s, [], none)
  | s, (i, o, l, ra) :: es => do
    let p : Piece := { loc := l, n := n, op := op i, pos := n * i, off := o, ra := ra }
    if s.isRelaxed cls l then do
      let (s, ps, k) ← routeElems n cls op s es
      .ok (s, p :: ps, k)
    else do
      s.ordinaryMay l n
      let (again, s) := match s.answered ra.toNat n (op i) with
        | some (_, s) => (true, s)
        | none => (false, s)
      match s.route { s.req with again := again } l n (op i) with
      | .page s k _ => .ok (s, [], some k)
      | r => do
        let (s, l') ← r.halt o ra
        s.wholeCheck l' n o
        let (s, ps, k) ← routeElems n cls op (if again then s else s.noteAccess ra.toNat n (op i) none false) es
        .ok (s, p.routed l' :: ps, k)

/-- The elements whose ways are clear are performed one after another; waiting PHWAITs read after each write (R93, R110, R197). -/
def performElems : State → List Piece → Except Halt (State × List Piece)
  | s, [] => .ok (s, [])
  | s, p :: ps => do
    let l := match p.phys with | some (pkg, pa) => .kns pkg pa | none => p.loc
    match s.performAt s.req l p.n p.op with
    | .ok s y => do
      let s := match p.phys with
        | some (pkg, pa) => if opReads p.op then s.rbSeen (cluOf s.cur.core) pkg pa p.n s.cth.uid else s
        | none => s
      let (s, ps) ← performElems (s.afterWrite p.op) ps
      .ok (s, { p with stage := .done y } :: ps)
    | .fail s c => .error (.trapIn s c p.off)
    | .page s k reason => .error (.park (s.request k reason false) k)
    | .again s w => .error (.wait s w)

/-- The elements of a gather or scatter whose checks of R38 have passed: what is written when the last one is performed at once. Where the
move makes accesses one by one, and where ordinary and relaxed elements are mixed, the pieces are performed in later moves and the thread
waits for the ordinary ones; a relaxed instruction stays one outstanding access (R94, R197, entry 68). -/
def elemsEff (s : State) (n : Nat) (cls : Cls) (op : Nat → POp) (dest : Dest) (es : List (Nat × Dword × Loc × Dword))
    (write : State → List Piece → State) : Eff :=
  let rlx := es.any (fun e => s.isRelaxed cls e.2.2.1)
  let all := es.all (fun e => s.isRelaxed cls e.2.2.1)
  if rlx ∧ 16 ≤ ((s.accesses s.cth.uid).filter Access.outstanding).length then .error (.wait s .drain)
  else match routeElems n cls op (s.begins s.cth.trail false) es with
    | .error (.wait s' p) =>
      .error (.wait ({ s' with cur := s.cur }.modCth (fun t => { t with trail := s'.cur.made ++ s'.cur.trail })) p)
    | .error (.trapIn s' c v) => .error (.trapIn (s.keepLog s') c v)
    | .error h => .error h
    | .ok (s', ps, k) =>
      let s' := { s' with cur := s.cur }
      let a : Access := { iss := s.issuer, cls := cls, elems := true, dest := dest, pieces := ps }
      if rlx ∧ all then do done (← s'.issueRelaxed a)
      else if ps ≠ [] ∧ (rlx ∨ s.cur.split) then
        let dest' : Dest := match k, dest with
          | none, d => d
          | some _, .none => .none
          | some _, _ => .gone
        .error (.access { s' with net := s'.net ++ [{ a with dest := dest', ord := some s.cur.glen, park := k, issued := s.counter }] })
      else match performElems s' ps with
        | .error (.trapIn s' c v) => .error (.trapIn (s.keepLog s') c v)
        | .error h => .error h
        | .ok (s, ps) =>
          match k with
          | none => done (write s ps)
          | some k => .error (.park ((s.request k ((s.missing (cluOf s.cur.core) k).getD 0) false).modCth (fun t => { t with trail := [] })) k)

/-- The bytes of finished pieces at their positions. -/
def gathered (ps : List Piece) : Vec :=
  ps.foldl (fun v p => match p.stage with | .done y => v ||| (BitVec.ofNat 512 y <<< (8 * p.pos)) | _ => v) 0

/-- VGATH: lane i reads at o + D_i; its ordinary elements at once or in later moves (R197). -/
def execVgath (x : P1) (d : Fin 8) (m : MemOp) (s : State) : Host.Outcome State Fault Refusal :=
  finish s (do
    let w := tyWidth x.ty
    let n := w / 8
    let v ← readV s d
    let o ← memOffset s m
    let act := lanesOf s x (tyLanes x.ty)
    let es ← checkElems s m.sg n rightR (act.map (fun i => (i, o + BitVec.ofNat 64 (lane w v i))))
    let keep := ~~~(laneBits w act)
    elemsEff s n m.cls (fun _ => .rd) (.v d keep) es (fun s ps => writeV s d ((v &&& keep) ||| gathered ps)))

/-- VSCAT: lane i of s is stored at o + lane i of s + 1 (R197). -/
def execVscat (x : P1) (m : MemOp) (r : Fin 8) (s : State) : Host.Outcome State Fault Refusal :=
  finish s (do
    let w := tyWidth x.ty
    let n := w / 8
    let v ← readV s r
    let f ← readV s (r + 1)
    let o ← memOffset s m
    let act := lanesOf s x (tyLanes x.ty)
    let es ← checkElems s m.sg n rightW (act.map (fun i => (i, o + BitVec.ofNat 64 (lane w f i))))
    elemsEff s n m.cls (fun i => .wr (lane w v i) (fullMask n)) .none es (fun s _ => s))

end Sys2Proof.Machine
end

