-- ==== Sys2Proof/Machine/Float.lean ====
section
/-! DEFINITION. The floating-point formats, exact values, the one rounding of R123 and R124, and the operations of R182 to R188 on
them. -/

namespace Sys2Proof.Machine

/-- A format: width, fraction bits, exponent bias, infinities (R114). -/
structure FloatFmt where
  w    : Nat
  mb   : Nat
  bias : Nat
  inf  : Bool
  deriving DecidableEq, Repr

/-- The formats of R114; any other type reads as f64 and no instruction gives one. -/
def floatFmt : Ty → FloatFmt
  | .f32 => ⟨32, 23, 127, true⟩
  | .f16 => ⟨16, 10, 15, true⟩
  | .bf16 => ⟨16, 7, 127, true⟩
  | .e4m3 => ⟨8, 3, 7, false⟩
  | .e5m2 => ⟨8, 2, 15, true⟩
  | _ => ⟨64, 52, 1023, true⟩

/-- A floating-point value: a NaN, an infinity, or (−1)^neg × m × 2^e. -/
inductive Fp where
  | nan (sig : Bool)
  | inf (neg : Bool)
  | fin (neg : Bool) (m : Nat) (e : Int)
  deriving DecidableEq, Repr

def Fp.isSig : Fp → Bool | .nan g => g | _ => false
def Fp.isNan : Fp → Bool | .nan _ => true | _ => false
def Fp.isZero : Fp → Bool | .fin _ m _ => m == 0 | _ => false
def Fp.isInf : Fp → Bool | .inf _ => true | _ => false
def Fp.neg? : Fp → Bool | .nan _ => false | .inf n => n | .fin n _ _ => n
/-- The value with its sign inverted. -/
def Fp.negate : Fp → Fp | .nan g => .nan g | .inf n => .inf !n | .fin n m e => .fin (!n) m e

/-- NV for a signalling NaN among the inputs (R116). -/
def sigFlags (l : List Fp) : Fl := flagIf (l.any Fp.isSig) fNV

/-- The value of an encoding (R114, R116, R117). -/
def decodeF (t : Ty) (x : Nat) : Fp :=
  let f := floatFmt t
  let neg := bitAt x (f.w - 1)
  let fr := x % 2 ^ f.mb
  let ex := bits x (f.w - 2) f.mb
  let top := 2 ^ (f.w - 1 - f.mb) - 1
  if f.inf ∧ ex = top then (if fr = 0 then .inf neg else .nan (!bitAt fr (f.mb - 1)))
  else if ¬ f.inf ∧ ex = top ∧ fr = 2 ^ f.mb - 1 then .nan false
  else if ex = 0 then .fin neg fr (1 - (f.bias : Int) - f.mb)
  else .fin neg (2 ^ f.mb + fr) ((ex : Int) - f.bias - f.mb)

/-- The encoding of zero, infinity (or the largest value where the format has none), the largest finite value and the canonical
NaN (R115). -/
def zeroF (t : Ty) (neg : Bool) : Nat := b2n neg * 2 ^ ((floatFmt t).w - 1)
def maxF (t : Ty) (neg : Bool) : Nat :=
  let f := floatFmt t
  zeroF t neg + (if f.inf then (2 ^ (f.w - 1 - f.mb) - 1) * 2 ^ f.mb - 1 else 0x7E)
def infF (t : Ty) (neg : Bool) : Nat :=
  let f := floatFmt t
  if f.inf then zeroF t neg + (2 ^ (f.w - 1 - f.mb) - 1) * 2 ^ f.mb else maxF t neg
def nanF (t : Ty) : Nat :=
  let f := floatFmt t
  if f.inf then (2 ^ (f.w - 1 - f.mb) - 1) * 2 ^ f.mb + 2 ^ (f.mb - 1) else 0x7F

/-- m / 2^sh rounded to an integer in a mode, and whether that is inexact (R123). Shifts past every bit of m act as one. -/
def roundShift (mode : RMode) (neg : Bool) (m : Nat) (sh : Int) : Nat × Bool :=
  if sh ≤ 0 then (m * 2 ^ (-sh).toNat, false)
  else
    let k := min sh.toNat (Nat.log2 m + 2)
    let q := m / 2 ^ k
    let r := m % 2 ^ k
    let half := 2 ^ (k - 1)
    let up := match mode with
      | .rne => decide (half < r ∨ (r = half ∧ q % 2 = 1))
      | .rtz => false
      | .rup => !neg && decide (r ≠ 0)
      | .rdn => neg && decide (r ≠ 0)
      | .rmm => decide (half ≤ r)
    (q + b2n up, decide (r ≠ 0))

/-- An overflow gives an infinity in this mode (R124). -/
def overInf (mode : RMode) (neg : Bool) : Bool :=
  match mode with
  | .rne | .rmm => true
  | .rtz => false
  | .rup => !neg
  | .rdn => neg

/-- RoundTo: an exact value rounded to a format, with the flags of R124 (R11, R123). The lowest bit of a mantissa may stand for all
bits below it. With sat8 an infinity is 57,344 in every conversion to e5m2, one from e5m2 among them (entry 16). -/
def roundTo (t : Ty) (mode : RMode) (sat8 : Bool) (v : Fp) : Nat × Fl :=
  match v with
  | .nan g => (nanF t, flagIf g fNV)
  | .inf n =>
    if t = .e4m3 ∨ (t = .e5m2 ∧ sat8) then (maxF t n, fOF ||| fNX) else (infF t n, 0)
  | .fin n m e =>
    if m = 0 then (zeroF t n, 0)
    else
      let f := floatFmt t
      let ex : Int := e + Nat.log2 m
      let emin : Int := 1 - f.bias
      let emax : Int := if f.inf then f.bias else f.bias + 1
      -- rounded with an unbounded exponent
      let r1 := (roundShift mode n m (ex - f.mb - e)).1
      let carry := r1 = 2 ^ (f.mb + 1)
      let ex1 : Int := if carry then ex + 1 else ex
      if ex1 > emax ∨ (¬ f.inf ∧ ex1 = emax ∧ ¬ carry ∧ r1 = 2 ^ (f.mb + 1) - 1) then
        (if t = .e4m3 ∨ ¬ overInf mode n ∨ (t = .e5m2 ∧ sat8) then maxF t n else infF t n, fOF ||| fNX)
      else
        let q : Int := max (ex - f.mb) (emin - f.mb)
        let r := roundShift mode n m (q - e)
        (zeroF t n + ((q + f.mb + f.bias - 1).toNat * 2 ^ f.mb + r.1),
          flagIf r.2 fNX ||| flagIf (r.2 && decide (ex1 < emin)) fUF)

/-! ## Exact arithmetic -/

/-- A finite value as a signed integer of units 2^e0, for e0 no larger than its exponent. -/
def units (n : Bool) (m : Nat) (e e0 : Int) : Int :=
  let k : Int := (m : Int) * ((2 ^ (e - e0).toNat : Nat) : Int)
  if n then -k else k

/-- An integer times 2^e; zero takes the sign `z`. -/
def ofUnits (z : Bool) (x : Int) (e : Int) : Fp := .fin (if x = 0 then z else decide (x < 0)) x.natAbs e

/-- The exact sum, with the flags of an invalid one; a zero sum takes the sign of R117. -/
def fpAdd (mode : RMode) (a b : Fp) : Fp × Fl :=
  match a, b with
  | .nan _, _ => (.nan false, sigFlags [a, b])
  | _, .nan _ => (.nan false, sigFlags [a, b])
  | .inf x, .inf y => if x = y then (a, 0) else (.nan false, fNV)
  | .inf _, _ => (a, 0)
  | _, .inf _ => (b, 0)
  | .fin n1 m1 e1, .fin n2 m2 e2 =>
    let z := decide (mode = .rdn)
    if m1 = 0 ∧ m2 = 0 then (.fin (if n1 = n2 then n1 else z) 0 0, 0)
    else if m1 = 0 then (b, 0)
    else if m2 = 0 then (a, 0)
    else
      let e0 := min e1 e2
      (ofUnits z (units n1 m1 e1 e0 + units n2 m2 e2 e0) e0, 0)

/-- The exact product. -/
def fpMul (a b : Fp) : Fp × Fl :=
  match a, b with
  | .nan _, _ => (.nan false, sigFlags [a, b])
  | _, .nan _ => (.nan false, sigFlags [a, b])
  | .inf x, _ => if b.isZero then (.nan false, fNV) else (.inf (x != b.neg?), 0)
  | _, .inf y => if a.isZero then (.nan false, fNV) else (.inf (a.neg? != y), 0)
  | .fin n1 m1 e1, .fin n2 m2 e2 => (.fin (n1 != n2) (m1 * m2) (e1 + e2), 0)

/-- The quotient, with enough bits and a sticky lowest one (R124). -/
def fpDiv (a b : Fp) : Fp × Fl :=
  match a, b with
  | .nan _, _ => (.nan false, sigFlags [a, b])
  | _, .nan _ => (.nan false, sigFlags [a, b])
  | .inf _, .inf _ => (.nan false, fNV)
  | .inf x, .fin n _ _ => (.inf (x != n), 0)
  | .fin n _ _, .inf y => (.fin (n != y) 0 0, 0)
  | .fin n1 m1 e1, .fin n2 m2 e2 =>
    if m2 = 0 then (if m1 = 0 then (.nan false, fNV) else (.inf (n1 != n2), fDZ))
    else
      let k := Nat.log2 m2 + 60
      let q := m1 * 2 ^ k / m2
      let r := m1 * 2 ^ k % m2
      (.fin (n1 != n2) (2 * q + b2n (r != 0)) (e1 - e2 - k - 1), 0)

/-- The largest r below 2^n with r² ≤ m, over the bits from n − 1 down. -/
def isqrt (m : Nat) : Nat → Nat → Nat
  | 0, r => r
  | n + 1, r => let r' := r + 2 ^ n; isqrt m n (if r' * r' ≤ m then r' else r)

/-- The square root, with enough bits and a sticky lowest one (R182). -/
def fpSqrt (a : Fp) : Fp × Fl :=
  match a with
  | .nan g => (.nan false, flagIf g fNV)
  | .inf n => if n then (.nan false, fNV) else (a, 0)
  | .fin n m e =>
    if m = 0 then (a, 0)
    else if n then (.nan false, fNV)
    else
      let odd := e % 2 ≠ 0
      let m' := (if odd then 2 * m else m) * 2 ^ 116
      let e' : Int := if odd then e - 1 else e
      let r := isqrt m' (Nat.log2 m' / 2 + 1) 0
      (.fin false (2 * r + b2n (r * r != m')) (e' / 2 - 58 - 1), 0)

/-- S × T + D, formed exactly: an invalid product raises NV even when D is a quiet NaN (R182). -/
def fpFma (mode : RMode) (a b c : Fp) : Fp × Fl :=
  let p := fpMul a b
  let r := fpAdd mode p.1 c
  (r.1, p.2 ||| r.2 ||| sigFlags [c])

/-- a < b as numbers; false for NaNs. -/
def fpLt (a b : Fp) : Bool :=
  match a, b with
  | .nan _, _ => false
  | _, .nan _ => false
  | .inf x, .inf y => x && !y
  | .inf x, .fin _ _ _ => x
  | .fin _ _ _, .inf y => !y
  | .fin n1 m1 e1, .fin n2 m2 e2 =>
    let e0 := min e1 e2
    decide (units n1 m1 e1 e0 < units n2 m2 e2 e0)

/-- a = b as numbers, −0 = +0; false for NaNs. -/
def fpEq (a b : Fp) : Bool := !a.isNan && !b.isNan && !fpLt a b && !fpLt b a

/-! ## The operations -/

/-- An arithmetic operation: the exact result, rounded once (R182). -/
def rounded (t : Ty) (mode : RMode) (sat8 : Bool) (r : Fp × Fl) : Nat × Fl :=
  match r with
  | (.nan _, fl) => (nanF t, fl)
  | (v, fl) => let o := roundTo t mode sat8 v; (o.1, o.2 ||| fl)

def opAdd (t : Ty) (m : RMode) (a b : Nat) : Nat × Fl := rounded t m false (fpAdd m (decodeF t a) (decodeF t b))
def opSub (t : Ty) (m : RMode) (a b : Nat) : Nat × Fl := rounded t m false (fpAdd m (decodeF t a) (decodeF t b).negate)
def opMul (t : Ty) (m : RMode) (a b : Nat) : Nat × Fl := rounded t m false (fpMul (decodeF t a) (decodeF t b))
def opDiv (t : Ty) (m : RMode) (a b : Nat) : Nat × Fl := rounded t m false (fpDiv (decodeF t a) (decodeF t b))
def opSqrt (t : Ty) (m : RMode) (a : Nat) : Nat × Fl := rounded t m false (fpSqrt (decodeF t a))

/-- The fused four: ±(S × T) ± D (R182). -/
def opFma (np nd : Bool) (t : Ty) (m : RMode) (d a b : Nat) : Nat × Fl :=
  let x := decodeF t a
  let z := decodeF t d
  rounded t m false (fpFma m (if np then x.negate else x) (decodeF t b) (if nd then z.negate else z))

/-- a before b in the order of R183, where −0 is less than +0. -/
def totalLt (a b : Fp) : Bool := fpLt a b || (a.isZero && b.isZero && a.neg? && !b.neg?)

/-- FMIN, FMAX, FMINM and FMAXM (R183). -/
def opMinMax (max num : Bool) (t : Ty) (a b : Nat) : Nat × Fl :=
  let w := (floatFmt t).w
  let x := decodeF t a
  let y := decodeF t b
  let fl := sigFlags [x, y]
  if x.isNan && y.isNan then (nanF t, fl)
  else if x.isNan then (if num then b % 2 ^ w else nanF t, fl)
  else if y.isNan then (if num then a % 2 ^ w else nanF t, fl)
  else
    let first := if max then !totalLt x y else !totalLt y x
    ((if first then a else b) % 2 ^ w, fl)

def opAbs (t : Ty) (a : Nat) : Nat := a % 2 ^ ((floatFmt t).w - 1)
def opNeg (t : Ty) (a : Nat) : Nat := let w := (floatFmt t).w; (a + 2 ^ (w - 1)) % 2 ^ w
def opCpys (t : Ty) (d a : Nat) : Nat := let w := (floatFmt t).w; d % 2 ^ (w - 1) + b2n (bitAt a (w - 1)) * 2 ^ (w - 1)

/-- FCMP (R185). -/
def opCmp (c : FCond) (t : Ty) (a b : Nat) : Bool × Fl :=
  let x := decodeF t a
  let y := decodeF t b
  let un := x.isNan || y.isNan
  let sg := sigFlags [x, y]
  match c with
  | .eq => (fpEq x y, sg)
  | .lt => (fpLt x y, flagIf un fNV)
  | .le => (fpLt x y || fpEq x y, flagIf un fNV)
  | .un => (un, sg)
  | .ne => (un || !fpEq x y, sg)
  | .ltq => (fpLt x y, sg)
  | .leq => (fpLt x y || fpEq x y, sg)
  | .or => (!un, sg)

/-- FCLASS (R186). -/
def opClass (t : Ty) (a : Nat) : Nat :=
  match decodeF t a with
  | .nan g => if g then 8 else 9
  | .inf n => if n then 0 else 7
  | .fin n m _ =>
    if m = 0 then (if n then 3 else 4)
    else if m < 2 ^ (floatFmt t).mb then (if n then 2 else 5)
    else (if n then 1 else 6)

/-- FRND: an integral value of the same format; NX when it differs (R187). -/
def opRnd (t : Ty) (m : RMode) (a : Nat) : Nat × Fl :=
  match decodeF t a with
  | .nan g => (nanF t, flagIf g fNV)
  | .inf n => (infF t n, 0)
  | .fin n k e =>
    let r := roundShift m n k (-e)
    if e ≥ 0 then (a % 2 ^ (floatFmt t).w, 0)
    else ((roundTo t .rne false (.fin n r.1 0)).1, flagIf r.2 fNX)

/-- FREM: exact, ties to the even multiple; a zero result has D's sign (R187). -/
def opRem (t : Ty) (d a : Nat) : Nat × Fl :=
  let x := decodeF t d
  let y := decodeF t a
  match x, y with
  | .nan _, _ => (nanF t, sigFlags [x, y])
  | _, .nan _ => (nanF t, sigFlags [x, y])
  | .inf _, _ => (nanF t, fNV)
  | .fin _ _ _, .inf _ => (d % 2 ^ (floatFmt t).w, 0)
  | .fin n1 m1 e1, .fin _ m2 e2 =>
    if m2 = 0 then (nanF t, fNV)
    else
      let e0 := min e1 e2
      let p := (units false m1 e1 e0).toNat
      let q := (units false m2 e2 e0).toNat
      let k := p / q
      let r := p % q
      let up := decide (q < 2 * r ∨ (2 * r = q ∧ k % 2 = 1))
      let v : Int := if up then (r : Int) - q else r
      ((roundTo t .rne false (ofUnits n1 (if n1 then -v else v) e0)).1, 0)

/-- FSCALB: D × 2^k rounded once (R187). -/
def opScalb (t : Ty) (m : RMode) (d : Nat) (k : Int) : Nat × Fl :=
  match decodeF t d with
  | .fin n x e => roundTo t m false (.fin n x (e + k))
  | v => roundTo t m false v

/-- FLOGB (R187). -/
def opLogb (t : Ty) (a : Nat) : Nat × Fl :=
  match decodeF t a with
  | .nan g => (nanF t, flagIf g fNV)
  | .inf _ => (infF t false, 0)
  | .fin _ m e =>
    if m = 0 then (infF t true, fDZ)
    else
      let x : Int := e + Nat.log2 m
      ((roundTo t .rne false (ofUnits false x 0)).1, 0)

/-! ## Conversions (R121, R124, R188) -/

/-- A floating value converted to a w-bit integer type. -/
def fpToInt (sg : Bool) (w : Nat) (m : RMode) (v : Fp) : Nat × Fl :=
  let lo : Int := if sg then -(2 ^ (w - 1) : Nat) else 0
  let hi : Int := if sg then (2 ^ (w - 1) : Nat) - 1 else (2 ^ w : Nat) - 1
  match v with
  | .nan _ => (0, fNV)
  | .inf n => (ofSigned w (if n then lo else hi), fNV)
  | .fin n k e =>
    -- a value past every bound needs no exact integer
    if k ≠ 0 ∧ e + Nat.log2 k > 64 then (ofSigned w (if n then lo else hi), fNV)
    else
      let r := roundShift m n k (-e)
      let x : Int := if n then -(r.1 : Int) else r.1
      if x < lo then (ofSigned w lo, fNV) else if hi < x then (ofSigned w hi, fNV) else (ofSigned w x, flagIf r.2 fNX)

/-- An integer as an exact value; zero is +0. -/
def intToFp (x : Int) : Fp := ofUnits false x 0

/-- A value scaled by 2^k, exactly. -/
def fpScale (v : Fp) (k : Int) : Fp := match v with | .fin n m e => .fin n m (e + k) | v => v

end Sys2Proof.Machine
end

