-- ==== Sys2Proof/Machine/Narrow.lean ====
section
/-! DEFINITION. The narrow formats: E8M0 block scales, Q4X with in-block outliers, TRI5, and block images (R118 to R120, R198 to
R201). -/

namespace Sys2Proof.Machine

/-- The value of a 4-bit code outside a marker (R119). -/
def q4Code (c : Nat) : Int := if c ≤ 7 then c else (c : Int) - 16

/-- The value of an O8 byte's low nibble under a marker (R119). -/
def o8Value (h : Nat) : Int :=
  let v : Nat := (2 + h % 2) * 2 ^ (2 * (h / 2 % 4) + 2)
  if h / 8 % 2 = 1 then -(v : Int) else v

/-- Element i of a Q4X block held as a number, and whether its code is illegal (R119). -/
def q4xElem (blk i : Nat) : Int × Bool :=
  let b := blk / 2 ^ (8 * (i / 2)) % 256
  let lo := b % 16
  let hi := b / 16
  if lo = 8 then (if i % 2 = 0 then (o8Value hi, false) else (0, false))
  else if i % 2 = 0 then (q4Code lo, false)
  else if hi = 8 then (0, true)
  else (q4Code hi, false)

/-- The weight of trit i of a TRI5 byte, and whether the byte is illegal (R120). -/
def triWeight (b i : Nat) : Int × Bool :=
  if 243 ≤ b then (0, true) else ((b / 3 ^ i % 3 : Nat) - 1, false)

/-- An element of a block decoded under its scale byte (R118): its value and NF for an illegal code. Format codes 4, 5 and 13; a NaN
scale gives a NaN without a flag. -/
def narrowElem (t : Ty) (code scale : Nat) (q : Int × Bool) : Fp × Fl :=
  if scale = 255 then (.nan false, 0)
  else match t with
    | .q4x => (fpScale (intToFp q.1) ((scale : Int) - 127), flagIf q.2 fNF)
    | t => (fpScale (decodeF t code) ((scale : Int) - 127), 0)

/-- Element i of a block image: an exact value and its flags; a format byte other than 4, 5 and 13 gives +0 and NF (R198, R201). -/
def imageElem (img i : Nat) : Fp × Fl :=
  let sc := img / 2 ^ 256 % 256
  let f := img / 2 ^ 264 % 256
  let code := img / 2 ^ (8 * i) % 256
  if f = 13 then narrowElem .q4x 0 sc (q4xElem img i)
  else if f = 4 then narrowElem .e4m3 code sc (0, false)
  else if f = 5 then narrowElem .e5m2 code sc (0, false)
  else (.fin false 0 0, fNF)

/-- emax of R199. -/
def scaleMax : Ty → Int | .q4x => 2 | .e4m3 => 8 | _ => 15

/-- The scale of R199 for the active elements, and their flags. -/
def blockScale (t : Ty) (l : List (Nat × Fp)) : Nat × List (Nat × Fl) :=
  let fl := (l.filter (fun e => e.2.isSig)).map (fun e => (e.1, fNV))
  if l.any (fun e => e.2.isNan || e.2.isInf) then (255, fl)
  else
    let lg := l.filterMap (fun e => match e.2 with | .fin _ m x => if m = 0 then none else some (x + (Nat.log2 m : Int)) | _ => none)
    match lg with
    | [] => (127, fl)
    | x :: xs => ((max 0 (min 254 (xs.foldl max x - scaleMax t + 127))).toNat, fl)

/-- An element rounded to an integer for Q4X: the integer or ±∞, NV for a NaN (R200). -/
def q4Round (m : RMode) (v : Fp) : Option Int × Bool × Fl :=
  match v with
  | .nan _ => (some 0, false, fNV)
  | .inf n => (none, n, 0)
  | .fin n k e =>
    if k ≠ 0 ∧ e + Nat.log2 k > 64 then (none, n, 0)
    else
      let r := (roundShift m n k (-e)).1
      (some (if n then -(r : Int) else r), n, 0)

/-- The magnitudes of the O8 values in rising order with their O8[2:0] (R119). -/
def o8Mags : List (Nat × Nat) := [(8, 0), (12, 1), (32, 2), (48, 3), (128, 4), (192, 5), (512, 6), (768, 7)]

/-- The O8 value nearest a value in the mode: O8[3:0] and SAT (R200). -/
def o8Near (m : RMode) (v : Fp) : Nat × Fl :=
  let n := v.neg?
  let a := if n then v.negate else v
  let s := 8 * b2n n
  if fpLt (intToFp 768) a then (s + 7, fSAT)
  else
    -- the values that bracket a
    let below := (o8Mags.filter (fun e => !fpLt a (intToFp e.1))).getLast?
    let above := o8Mags.find? (fun e => !fpLt (intToFp e.1) a)
    match below, above with
    | none, _ => (s, 0)
    | some b, none => (s + b.2, 0)
    | some b, some u =>
      if b.1 = u.1 then (s + b.2, 0)
      else
        let mid := intToFp ((b.1 + u.1 : Nat) / 2 : Nat)
        let up := match m with
          | .rne => fpLt mid a || (fpEq mid a && u.2 % 2 == 0)
          | .rmm => !fpLt a mid
          | .rtz => false
          | .rup => !n
          | .rdn => n
        (s + (if up then u.2 else b.2), 0)

/-- The pair j of a Q4X block from two exact elements: its byte, and the flags of its two lanes (R200). -/
def q4xPair (m : RMode) (x y : Fp) : Nat × Fl × Fl :=
  let (ra, na, fa) := q4Round m x
  let (rb, nb, fb) := q4Round m y
  let big (r : Option Int) : Bool := match r with | none => true | some v => decide (7 < v.natAbs)
  let clamp (n : Bool) : Int := if n then -7 else 7
  let qb : Int := if big rb then clamp nb else rb.getD 0
  let fb := fb ||| flagIf (big rb) fSAT
  let nib (v : Int) : Nat := (v % 16).toNat
  let differs (v : Fp) (k : Int) : Fl := flagIf (!v.isNan && !fpEq v (intToFp k)) fNX
  if ¬ big ra then
    let qa := ra.getD 0
    (nib qa + 16 * nib qb, fa ||| differs x qa, fb ||| differs y qb)
  else if qb = 0 then
    let (h, fs) := o8Near m x
    (8 + 16 * h, fa ||| fs ||| differs x (o8Value h), fb ||| differs y 0)
  else (nib (clamp na) + 16 * nib qb, fa ||| fSAT ||| differs x (clamp na), fb ||| differs y qb)

/-- The block image of 32 exact elements under a scale byte; inactive lanes are given as none (R200). The elements are those before
the scaling by 2^(127 − e). -/
def packImage (t : Ty) (m : RMode) (sat8 : Bool) (e : Nat) (xs : Nat → Option Fp) : Nat × List (Nat × Fl) :=
  let code := match t with | .q4x => 13 | .e4m3 => 4 | _ => 5
  let top := e * 2 ^ 256 + code * 2 ^ 264
  if e = 255 then
    let fill := if t = .q4x then 0 else (List.range 32).foldl (fun a i => a + nanF t * 2 ^ (8 * i)) 0
    (top + fill, (List.range 32).filterMap (fun i => (xs i).map (fun _ => (i, fNV))))
  else
    let x (i : Nat) : Option Fp := (xs i).map (fun v => fpScale v (127 - (e : Int)))
    if t = .q4x then
      let ps := (List.range 16).map (fun j =>
        let z : Fp := .fin false 0 0
        (j, q4xPair m ((x (2 * j)).getD z) ((x (2 * j + 1)).getD z)))
      (top + ps.foldl (fun a p => a + p.2.1 * 2 ^ (8 * p.1)) 0,
        ps.flatMap (fun p => [(2 * p.1, p.2.2.1), (2 * p.1 + 1, p.2.2.2)]))
    else
      let ls := (List.range 32).filterMap (fun i => (x i).map (fun v => (i, roundTo t m sat8 v)))
      (top + ls.foldl (fun a p => a + p.2.1 * 2 ^ (8 * p.1)) 0, ls.map (fun p => (p.1, p.2.2)))

end Sys2Proof.Machine
end

