-- ==== Sys2Proof/Machine/VecFp.lean ====
section
/-! DEFINITION. Page 1: floating-point arithmetic, comparison, conversion, and the flag registers (R182 to R189). -/

namespace Sys2Proof.Machine

/-- The result of an operation that raises nothing. -/
def noFl (x : Nat) : Nat × Fl := (x, 0)

/-- A floating instruction with sources D and S. -/
def fpDS (s : State) (x : P1) (d o : Opnd) (f : Nat → Nat → Nat × Fl) : Eff :=
  let w := tyWidth x.ty
  lanewise s x (tyLanes x.ty) w w false false true d (.op o) none (fun a b _ => f a b)

/-- A floating instruction with the source S alone. -/
def fpS (s : State) (x : P1) (d o : Opnd) (f : Nat → Nat × Fl) : Eff :=
  let w := tyWidth x.ty
  lanewise s x (tyLanes x.ty) w w false false false d (.op o) none (fun _ b _ => f b)

/-- A fused instruction with sources D, S and T. -/
def fpFused (s : State) (x : P1) (d o t : Opnd) (f : Nat → Nat → Nat → Nat × Fl) : Eff :=
  let w := tyWidth x.ty
  lanewise s x (tyLanes x.ty) w w false false true d (.op o) (some t) f

/-- FADD: D + S (R182). -/
def execFadd (x : P1) (d o : Opnd) (rm : Option RMode) (s : State) : Host.Outcome State Fault Refusal :=
  finish s (fpDS s x d o (opAdd x.ty (roundMode s rm)))

/-- FSUB: D − S (R182). -/
def execFsub (x : P1) (d o : Opnd) (rm : Option RMode) (s : State) : Host.Outcome State Fault Refusal :=
  finish s (fpDS s x d o (opSub x.ty (roundMode s rm)))

/-- FMUL: D × S (R182). -/
def execFmul (x : P1) (d o : Opnd) (rm : Option RMode) (s : State) : Host.Outcome State Fault Refusal :=
  finish s (fpDS s x d o (opMul x.ty (roundMode s rm)))

/-- FDIV: D / S (R182). -/
def execFdiv (x : P1) (d o : Opnd) (rm : Option RMode) (s : State) : Host.Outcome State Fault Refusal :=
  finish s (fpDS s x d o (opDiv x.ty (roundMode s rm)))

/-- FSQRT: √S; D is not read (R182). -/
def execFsqrt (x : P1) (d o : Opnd) (rm : Option RMode) (s : State) : Host.Outcome State Fault Refusal :=
  finish s (fpS s x d o (opSqrt x.ty (roundMode s rm)))

/-- FMA: S × T + D (R182). -/
def execFma (x : P1) (d o t : Opnd) (rm : Option RMode) (s : State) : Host.Outcome State Fault Refusal :=
  finish s (fpFused s x d o t (opFma false false x.ty (roundMode s rm)))

/-- FMS: S × T − D (R182). -/
def execFms (x : P1) (d o t : Opnd) (rm : Option RMode) (s : State) : Host.Outcome State Fault Refusal :=
  finish s (fpFused s x d o t (opFma false true x.ty (roundMode s rm)))

/-- FNMA: −(S × T) + D (R182). -/
def execFnma (x : P1) (d o t : Opnd) (rm : Option RMode) (s : State) : Host.Outcome State Fault Refusal :=
  finish s (fpFused s x d o t (opFma true false x.ty (roundMode s rm)))

/-- FNMS: −(S × T) − D (R182). -/
def execFnms (x : P1) (d o t : Opnd) (rm : Option RMode) (s : State) : Host.Outcome State Fault Refusal :=
  finish s (fpFused s x d o t (opFma true true x.ty (roundMode s rm)))

/-- FMIN: minimumNumber (R183). -/
def execFmin (x : P1) (d o : Opnd) (s : State) : Host.Outcome State Fault Refusal :=
  finish s (fpDS s x d o (opMinMax false true x.ty))

/-- FMAX: maximumNumber (R183). -/
def execFmax (x : P1) (d o : Opnd) (s : State) : Host.Outcome State Fault Refusal :=
  finish s (fpDS s x d o (opMinMax true true x.ty))

/-- FMINM: minimum (R183). -/
def execFminm (x : P1) (d o : Opnd) (s : State) : Host.Outcome State Fault Refusal :=
  finish s (fpDS s x d o (opMinMax false false x.ty))

/-- FMAXM: maximum (R183). -/
def execFmaxm (x : P1) (d o : Opnd) (s : State) : Host.Outcome State Fault Refusal :=
  finish s (fpDS s x d o (opMinMax true false x.ty))

/-- FABS (R184). -/
def execFabs (x : P1) (d o : Opnd) (s : State) : Host.Outcome State Fault Refusal :=
  finish s (fpS s x d o (fun b => noFl (opAbs x.ty b)))

/-- FNEG (R184). -/
def execFneg (x : P1) (d o : Opnd) (s : State) : Host.Outcome State Fault Refusal :=
  finish s (fpS s x d o (fun b => noFl (opNeg x.ty b)))

/-- FCPYS: D with S's sign (R184). -/
def execFcpys (x : P1) (d o : Opnd) (s : State) : Host.Outcome State Fault Refusal :=
  finish s (fpDS s x d o (fun a b => noFl (opCpys x.ty a b)))

/-- FCMP (R185). -/
def execFcmp (x : P1) (d o t : Opnd) (c : FCond) (s : State) : Host.Outcome State Fault Refusal :=
  finish s (compare s x (tyLanes x.ty) (tyWidth x.ty) d o t (opCmp c x.ty))

/-- FCLASS (R186). -/
def execFclass (x : P1) (d o : Opnd) (s : State) : Host.Outcome State Fault Refusal :=
  finish s (fpS s x d o (fun b => noFl (opClass x.ty b)))

/-- FCVT: to the floating type t; the smaller lane count converts and the rest is zeroed (R188). Of e5m2 to e5m2 R188 returns S, and R124
gives an infinity with sat8 set as 57,344 in every conversion to e5m2: here R124's value (entry 16). -/
def execFcvt (x : P1) (d o : Opnd) (tt : Ty) (rm : Option RMode) (s : State) : Host.Outcome State Fault Refusal :=
  finish s (lanewise s x (min (tyLanes x.ty) (tyLanes tt)) (tyWidth x.ty) (tyWidth tt) false true false d (.op o) none
    (fun _ b _ => roundTo tt (roundMode s rm) s.cth.fctl.sat8 (decodeF x.ty b)))

/-- FCVTI: to the integer type t (R121, R188). -/
def execFcvti (x : P1) (d o : Opnd) (tt : Ty) (rm : Option RMode) (s : State) : Host.Outcome State Fault Refusal :=
  finish s (lanewise s x (min (tyLanes x.ty) (tyLanes tt)) (tyWidth x.ty) (tyWidth tt) (tySigned tt) true false d (.op o) none
    (fun _ b _ => fpToInt (tySigned tt) (tyWidth tt) (roundMode s rm) (decodeF x.ty b)))

/-- The integer a lane of an integer type holds. -/
def intVal (t : Ty) (x : Nat) : Int := if tySigned t then toSigned (tyWidth t) x else ((x % 2 ^ tyWidth t : Nat) : Int)

/-- ICVTF: from the integer type t (R188). A g source gives every lane its low bits, as many as a lane of t has, where R179 speaks of the
lanes of the type in PFX.P: the model's choice (entry 14). -/
def execIcvtf (x : P1) (d o : Opnd) (src : Ty) (rm : Option RMode) (s : State) : Host.Outcome State Fault Refusal :=
  finish s (lanewise s x (min (tyLanes x.ty) (tyLanes src)) (tyWidth src) (tyWidth x.ty) false true false d (.op o) none
    (fun _ b _ => roundTo x.ty (roundMode s rm) s.cth.fctl.sat8 (intToFp (intVal src b))))

/-- FRND (R187). -/
def execFrnd (x : P1) (d o : Opnd) (rm : Option RMode) (s : State) : Host.Outcome State Fault Refusal :=
  finish s (fpS s x d o (opRnd x.ty (roundMode s rm)))

/-- FREM (R187). -/
def execFrem (x : P1) (d o : Opnd) (s : State) : Host.Outcome State Fault Refusal :=
  finish s (fpDS s x d o (opRem x.ty))

/-- FSCALB: S is a signed integer of w bits, of 64 in the scalar form (R187). -/
def execFscalb (x : P1) (d o : Opnd) (rm : Option RMode) (s : State) : Host.Outcome State Fault Refusal :=
  finish s (fpDS s x d o (fun a b => opScalb x.ty (roundMode s rm) a (toSigned (if x.sc then 64 else tyWidth x.ty) b)))

/-- FLOGB (R187). -/
def execFlogb (x : P1) (d o : Opnd) (s : State) : Host.Outcome State Fault Refusal :=
  finish s (fpS s x d o (opLogb x.ty))

/-- FGET: FCTL, or FFLG, which observes every completed matrix operation (R125, R189). -/
def execFget (d : Fin 24) (ctl : Bool) (s : State) : Host.Outcome State Fault Refusal :=
  finish s (
    if ctl then done (writeG s d (fctlWord s.cth.fctl))
    else do
      observeAll s.cth.deferred
      done (writeG s d (fflgWord s.cth.fflg)))

/-- FSET: rm 5 to 7 traps and leaves FCTL (R122, R189). -/
def execFset (r : Fin 24) (ctl : Bool) (s : State) : Host.Outcome State Fault Refusal :=
  finish s (do
    let x ← readG s r
    if ctl then
      match fctlOf x with
      | some f => done (s.modCth (fun t => { t with fctl := f }))
      | none => .error (.trap 0x01 (s.baseIllegal 10))
    else done (s.modCth (fun t => { t with fflg := x.setWidth 7 })))

end Sys2Proof.Machine
end

