-- ==== Sys2Proof/Machine/NarrowI.lean ====
section
/-! DEFINITION. The narrow-format instructions of page 1 and BADDQ (R199 to R202, R204). -/

namespace Sys2Proof.Machine

/-- QPACK: encodes 32 lanes under the scale in D[7:0] (R200). -/
def execQpack (x : P1) (d o : Fin 8) (tt : Ty) (rm : Option RMode) (s : State) : Host.Outcome State Fault Refusal :=
  finish s (do
    let a ← readV s d
    let v ← readV s o
    let m := maskBits s x.mask
    let r := packImage tt (roundMode s rm) s.cth.fctl.sat8 (a.toNat % 256)
      (fun i => if active m i then some (decodeF x.ty (lane 16 v i)) else none)
    done (← raiseFlags (writeV s d (BitVec.ofNat 512 r.1)) r.2))

/-- BSCL: the scale that suits the active elements (R199). -/
def execBscl (x : P1) (d : Fin 16) (o : Fin 8) (tt : Ty) (s : State) : Host.Outcome State Fault Refusal :=
  finish s (do
    let v ← readV s o
    let r := blockScale tt ((lanesOf s x 32).map (fun i => (i, decodeF x.ty (lane 16 v i))))
    done (← raiseFlags (writeG s (Fin.castLE (by decide) d) (BitVec.ofNat 64 r.1)) r.2))

/-- QUNP: decodes a block image in FCTL.rm (R201). -/
def execQunp (x : P1) (d o : Fin 8) (s : State) : Host.Outcome State Fault Refusal :=
  finish s (do
    let v ← readV s o
    let rs := (lanesOf s x 32).map (fun i =>
      let e := imageElem v.toNat i
      let r := roundTo x.ty s.cth.fctl.rm false e.1
      (i, r.1, r.2 ||| e.2))
    done (← raiseFlags (writeV s d (rs.foldl (fun a e => setLane 16 a e.1 e.2.1) (s.cth.v[d.val]))) (rs.map (fun e => (e.1, e.2.2)))))

/-- TUNP: TRI5 bytes 0 to 12 to 64 i8 lanes (R202). -/
def execTunp (x : P1) (d o : Fin 8) (s : State) : Host.Outcome State Fault Refusal :=
  finish s (do
    let v ← readV s o
    let rs := (lanesOf s x 64).map (fun l =>
      let r := triWeight (lane 8 v (l / 5)) (l % 5)
      (l, ofSigned 8 r.1, flagIf r.2 fNF))
    done (← raiseFlags (writeV s d (rs.foldl (fun a e => setLane 8 a e.1 e.2.1) (s.cth.v[d.val]))) (rs.map (fun e => (e.1, e.2.2)))))

/-- The checks of BADDQ on an address: space, right, reach, then alignment (R204). -/
def State.blockCheck (s : State) (a : Dword) (right : Nat) : Except Halt Unit :=
  let l := s.place s.cur.core s.ctag (raSpace a) (raField a)
  if raSpace a < 1 ∨ 5 < raSpace a ∨ raRights a &&& right ≠ right ∨ ¬ inReach s.cur.core l then .error (.trap 0x04 a)
  else if a.toNat % 64 ≠ 0 then .error (.trap 0x05 a)
  else .ok ()

/-- The sum of two block images under a format and a rounding mode, with the kept scale or that of R199: the image and the flags of its
elements (R204; the scaling is that of R200, entry 10). -/
def blockSum (fmt : Ty) (m : RMode) (sat8 : Bool) (keep : Option Nat) (a b : Nat) : Nat × List (Nat × Fl) :=
  let xs : List (Nat × Fp × Fl) := tab 32 (fun i =>
    let x := imageElem a i
    let y := imageElem b i
    let z := fpAdd m x.1 y.1
    (i, z.1, x.2 ||| y.2 ||| z.2))
  let sc : Nat × List (Nat × Fl) := match keep with
    | some e => (e, [])
    | none => blockScale fmt (xs.map (fun e => (e.1, e.2.1)))
  let img := packImage fmt m sat8 sc.1 (fun i => (xs[i]?).map (fun e => e.2.1))
  (img.1, xs.map (fun e => (e.1, e.2.2)) ++ sc.2 ++ img.2)

/-- The store of BADDQ, with the flags that the instruction sets when it completes: at once, or in pieces (R91, R204). -/
def State.blockStore (via : Via) (s : State) (a : Dword) (img : Nat) (f : Fl) : Eff :=
  let op : POp := .wr img (fullMask 64)
  if s.cur.split then
    if s.cur.acted then .error (.wait s .more)
    else match s.place s.cur.core s.ctag (raSpace a) (raField a) with
      | none => .error (.trapIn (s.noCore s.ctag (raField a)) 0x04 a)
      | some l => s.ordinaryPieces l 64 op a a (.fflg f)
  else do
    let (s, _) ← via s a 64 op
    done (s.modCth (fun t => { t with fflg := t.fflg ||| f }))

/-- BADDQ: two block images decoded, added exactly, encoded under the kept scale or that of R199; the flags trap before the store (R204). -/
def execBaddq (d r t : Fin 24) (fmt : Ty) (keep : Bool) (rm : Option RMode) (s : State) : Host.Outcome State Fault Refusal :=
  finish s (do
    let da ← readG s d
    let sa ← readG s r
    let ta ← readG s t
    s.blockCheck da (if keep then rightR + rightW else rightW)
    s.blockCheck sa rightR
    s.blockCheck ta rightR
    let run (via : Via) (s : State) : Eff := do
      let (s, a) ← via s sa 64 .rd
      let (s, b) ← via s ta 64 .rd
      let (s, old) ← if keep then via s da 64 .rd else pure (s, 0)
      let r := blockSum fmt (roundMode s rm) s.cth.fctl.sat8 (if keep then some (bits old 263 256) else none) a b
      let f := mergeFlags r.2
      let te := s.cth.fctl.te
      if f &&& te ≠ 0 then .error (.flagsIn s f (trapLanes te r.2))
      else s.blockStore via da r.1 f
    s.tracked (run viaWhole) (run State.onceAddress))

end Sys2Proof.Machine
end

