-- ==== Sys2Proof/Machine/Rope.lean ====
section
/-! DEFINITION. Ropes: descriptor records, summary slots, nodes, references, joining and splitting, allocation and commit (R247 to
R258, R266, R267). -/

namespace Sys2Proof.Machine

/-! ## Summary slots (R249 to R251) -/

/-- The fields of a summary slot (R249). -/
structure Slot where
  comp  : Nat
  rule  : Nat
  op    : Nat
  map   : Bool
  width : Nat
  src   : Nat
  off   : Nat
  deriving DecidableEq, Repr

def slotOf (x : Dword) : Slot :=
  let n := x.toNat
  { comp := bits n 31 30, rule := bits n 29 28, op := bits n 27 25, map := bitAt n 24, width := bits n 21 20, src := bits n 19 16
    off := bits n 15 0 }

/-- Bytes of a slot's source field. -/
def Slot.bytes (x : Slot) : Nat := 2 ^ x.width

/-- The sources an op accepts (R250). -/
def slotSrcOk (x : Slot) : Bool :=
  match x.op with
  | 0 | 5 => decide (x.src < 3)
  | 1 => x.src == 0 || (x.src == 3 && x.width != 0)
  | 2 | 3 => x.src == 3 && (x.width == 1 || x.width == 2)
  | 4 => x.src == 1 || x.src == 2
  | _ => false

/-- The rules with which map 1 is accepted (R250). -/
def slotMapOk (x : Slot) : Bool :=
  match x.rule with
  | 1 => !x.map
  | 2 => x.map && decide (x.op < 2)
  | 3 => x.map && decide (x.op < 5)
  | _ => false

/-- The combinations of R250, for slot i of four in an element of 2^esz bytes. -/
def slotOk (slots : List Dword) (esz i : Nat) : Bool :=
  let w := slots.getD i 0
  let x := slotOf w
  if x.rule = 0 then w == 0
  else
    decide (bits w.toNat 63 32 = 0 ∧ bits w.toNat 23 22 = 0) && slotSrcOk x && slotMapOk x && decide (x.off % x.bytes = 0) &&
      decide (x.off + x.bytes ≤ 2 ^ esz) &&
      (if x.rule = 2 then
        let c := slotOf (slots.getD x.comp 0)
        decide (x.comp ≠ i ∧ c.rule = 1 ∧ c.src = x.src ∧ c.width = x.width ∧ c.off = x.off ∧ c.op = x.op)
       else x.comp == 0)

/-- The identity of an op (R250). -/
def slotIdentity (op : Nat) : Nat :=
  match op with
  | 2 => 0xFF800000
  | 3 => 0x7F800000
  | 4 => 2 ^ 63
  | _ => 0

/-- The floating type of a width (R250). -/
def slotTy (width : Nat) : Ty := match width with | 1 => .f16 | 2 => .f32 | _ => .f64

/-- A slot's value for an element whose source field holds raw, at position q (R250). -/
def slotValue (x : Slot) (raw q : Nat) : Nat :=
  let q := if x.map then q else 1
  match x.op with
  | 1 | 2 | 3 =>
    let v : Fp := if x.src = 0 then intToFp 1 else decodeF (slotTy x.width) raw
    (roundTo (if x.op = 1 then .f64 else .f32) .rne false (fpMul v (intToFp q)).1).1
  | _ =>
    let v : Int := match x.src with | 0 => 1 | 1 => toSigned (8 * x.bytes) raw | _ => raw
    ofSigned 64 (v * q)

/-- op(a, b) (R251). -/
def slotOp (op a b : Nat) : Nat :=
  match op with
  | 0 => (a + b) % 2 ^ 64
  | 1 => (opAdd .f64 .rne a b).1
  | 2 => (opMinMax true true .f32 (a % 2 ^ 32) (b % 2 ^ 32)).1
  | 3 => (opMinMax false true .f32 (a % 2 ^ 32) (b % 2 ^ 32)).1
  | 4 => if toSigned 64 a < toSigned 64 b then b else a
  | _ => a ||| b

/-- l.s + r.s + l.count × r.s[comp], for f64 formed exactly and rounded once (R254). -/
def slotRelative (op l r n c : Nat) : Nat :=
  if op = 1 then
    let p := (fpMul (intToFp n) (decodeF .f64 c)).1
    let sum := (fpAdd .rne (fpAdd .rne (decodeF .f64 l) (decodeF .f64 r)).1 p).1
    (roundTo .f64 .rne false sum).1
  else (l + r + n * c) % 2 ^ 64

/-! ## Nodes (R252) -/

/-- absoff where no ABSOLUTE summary is valid. -/
def noAbs : Nat := 2 ^ 48 - 1

/-- A node as read: height, descriptor id, children and count of a stook, payload, offset, length and element size of a sheaf. -/
structure RNode where
  height : Nat
  desc   : Nat
  left   : Nat
  right  : Nat
  count  : Nat
  pay    : Dword
  off    : Nat
  absoff : Nat
  sums   : List Nat
  /-- no reserved field is set -/
  clean  : Bool
  deriving DecidableEq, Repr

def rnodeOf (x : Nat) : RNode :=
  let h := bits x 7 0
  { height := h, desc := bits x 15 8, left := bits x 95 64, right := bits x 127 96
    count := if h = 0 then bits x 175 160 else bits x 175 128
    pay := BitVec.ofNat 64 (bits x 127 64), off := bits x 159 128, absoff := bits x 239 192
    sums := tab 4 (fun i => bits x (256 + 64 * i + 63) (256 + 64 * i))
    clean := decide (bits x 31 16 = 0 ∧ bits x 255 240 = 0 ∧ (if h = 0 then bits x 191 184 = 0 else bits x 191 176 = 0)) }

/-- A rope under construction: a node of the pool, or a new one with its place in the order of creation (R267). -/
inductive RTree where
  | old (h : Dword) (n : RNode)
  | sheaf (seq : Nat) (pay : Dword) (off len : Nat)
  | node (seq : Nat) (l r : RTree)
  deriving DecidableEq, Repr

def RTree.height : RTree → Nat
  | .old _ n => n.height
  | .sheaf _ _ _ _ => 0
  | .node _ l r => 1 + max l.height r.height

def RTree.count : RTree → Nat
  | .old _ n => n.count
  | .sheaf _ _ _ len => len
  | .node _ l r => l.count + r.count

/-- Height and count of a rope that may be empty (R258). -/
def ropeCount : Option RTree → Nat | none => 0 | some t => t.count

/-- What an operation of a rope engine works with: its accesses, the binding and its id. -/
structure RopeCtx where
  req  : Req
  did  : Nat
  desc : RopeDesc
  deriving DecidableEq, Repr

/-- The handle of node i, which must lie in the pool (R247; `RopeCtx.node`). -/
def RopeCtx.handle (c : RopeCtx) (i : Nat) : Dword := raAdd c.desc.base (64 * i)

/-- The index of a handle of the pool, if it is one (R257). -/
def RopeCtx.index (c : RopeCtx) (h : Dword) : Option Nat :=
  let d := raField h - raField c.desc.base
  if raSpace h = raSpace c.desc.base ∧ raRights h = raRights c.desc.base ∧ raField c.desc.base ≤ raField h ∧ d % 64 = 0 ∧
      d / 64 < c.desc.count then some (d / 64) else none

def RopeCtx.slot (c : RopeCtx) (i : Nat) : Slot := slotOf (c.desc.slots.getD i 0)

/-- A program of the engine that also counts the nodes it has created. -/
abbrev Rp (α : Type) := StateT Nat Eng α

/-- An access of the engine after the check of R36. -/
def Eng.chk (r : Req) (a : Dword) (n right : Nat) (op : POp) : Eng Nat := do
  Eng.need (engineAddrOk a n right) a
  Eng.acc r a n op

/-- The handle of node i of the pool; an index past the pool, whose sum might pass the extent of its space, is refused with v (R36,
R257). -/
def RopeCtx.node (c : RopeCtx) (i : Nat) (v : Dword) : Eng Dword := do
  Eng.need (decide (i < c.desc.count)) v
  pure (c.handle i)

/-- What R257 refuses of a node that is read. -/
def RNode.ok (n : RNode) (c : RopeCtx) : Bool := decide (n.height < 128) && n.clean && n.desc == c.did

/-- The node at a handle of the pool as read, checked (R257 step 2). -/
def ropeSeen (c : RopeCtx) (h : Dword) (x : Nat) : Eng RTree := do
  Eng.need (c.index h).isSome h
  let n := rnodeOf x
  Eng.need (n.ok c) h
  pure (.old h n)

/-- The children of a tree; their heights obey R253. -/
def ropeKids (c : RopeCtx) (t : RTree) : Eng (RTree × RTree) :=
  match t with
  | .node _ l r => pure (l, r)
  | .sheaf _ pay _ _ => Eng.refuse pay
  | .old h n => do
    Eng.need (n.height != 0) h
    let a ← c.node n.left (c.handle n.left)
    let b ← c.node n.right (c.handle n.right)
    let xs ← Eng.many ([a, b].map (fun x => { r := c.req, a := x, n := 64, op := .rd }))
    let l ← ropeSeen c a (xs.getD 0 0)
    let r ← ropeSeen c b (xs.getD 1 0)
    Eng.need (decide (n.height = 1 + max l.height r.height ∧ l.height ≤ r.height + 1 ∧ r.height ≤ l.height + 1)) h
    pure (l, r)

/-- Node(l, r), in the order of creation (R258, R267). -/
def ropeMk (l r : RTree) : Rp RTree := fun n => pure (.node n l r, n + 1)

/-- Cut(T, i, m) (R258). -/
def ropeCut (t : RTree) (i m : Nat) : Rp RTree := fun n => pure (
  match t with
  | .old _ x => .sheaf n x.pay (x.off + i) m
  | .sheaf _ p o _ => .sheaf n p (o + i) m
  | t => t, n + 1)

/-- Join of two ropes that are not empty, by fuel on the heights (R258). -/
def ropeJoinF (c : RopeCtx) : Nat → RTree → RTree → Rp RTree
  | 0, l, r => ropeMk l r
  | f + 1, l, r =>
    if r.height + 1 < l.height then do
      let (a, b) ← ropeKids c l
      let t ← ropeJoinF c f b r
      if t.height ≤ a.height + 1 then ropeMk a t
      else
        let (tl, tr) ← ropeKids c t
        if tl.height ≤ tr.height then ropeMk (← ropeMk a tl) tr
        else
          let (u, v) ← ropeKids c tl
          let x ← ropeMk a u
          let y ← ropeMk v tr
          ropeMk x y
    else if l.height + 1 < r.height then do
      let (a, b) ← ropeKids c r
      let t ← ropeJoinF c f l a
      if t.height ≤ b.height + 1 then ropeMk t b
      else
        let (tl, tr) ← ropeKids c t
        if tr.height ≤ tl.height then ropeMk tl (← ropeMk tr b)
        else
          let (u, v) ← ropeKids c tr
          let x ← ropeMk tl u
          let y ← ropeMk v b
          ropeMk x y
    else ropeMk l r

/-- Join(L, R) (R258). -/
def ropeJoin (c : RopeCtx) (l r : Option RTree) : Rp (Option RTree) :=
  match l, r with
  | none, r => pure r
  | l, none => pure l
  | some l, some r => do pure (some (← ropeJoinF c 256 l r))

/-- Split(T, k) of a rope that is not empty, 0 < k < count, by fuel on the height (R258). -/
def ropeSplitF (c : RopeCtx) : Nat → RTree → Nat → Rp (Option RTree × Option RTree)
  | 0, t, _ => pure (some t, none)
  | f + 1, t, k =>
    if k = 0 then pure (none, some t)
    else if t.count ≤ k then pure (some t, none)
    else if t.height = 0 then do
      let a ← ropeCut t 0 k
      let b ← ropeCut t k (t.count - k)
      pure (some a, some b)
    else do
      let (l, r) ← ropeKids c t
      let n := l.count
      if k < n then
        let (a, b) ← ropeSplitF c f l k
        let y ← ropeJoin c b (some r)
        pure (a, y)
      else if k = n then pure (some l, some r)
      else
        let (a, b) ← ropeSplitF c f r (k - n)
        let y ← ropeJoin c (some l) a
        pure (y, b)

def ropeSplit (c : RopeCtx) (t : Option RTree) (k : Nat) : Rp (Option RTree × Option RTree) :=
  match t with
  | none => pure (none, none)
  | some t => ropeSplitF c 256 t k

/-- Refresh(x, p) (R266). -/
def ropeRefreshF (c : RopeCtx) : Nat → RTree → Nat → Rp RTree
  | 0, t, _ => pure t
  | f + 1, t, p =>
    match t with
    | .old _ n =>
      if n.absoff = p then pure t
      else if n.height = 0 then ropeCut t 0 n.count
      else do
        let (l, r) ← ropeKids c t
        let l' ← ropeRefreshF c f l p
        let r' ← ropeRefreshF c f r (p + l.count)
        ropeMk l' r'
    | t => pure t

/-- Build of a list of sheaves, by fuel on its length (R261). -/
def ropeBuildF : Nat → List RTree → Rp (Option RTree)
  | _, [] => pure none
  | _, [t] => pure (some t)
  | 0, t :: _ => pure (some t)
  | f + 1, ts => do
    let k := (ts.length + 1) / 2
    match ← ropeBuildF f (ts.take k), ← ropeBuildF f (ts.drop k) with
    | some l, some r => do pure (some (← ropeMk l r))
    | l, _ => pure l

/-! ## Summaries (R254) -/

/-- A slot reads its source in every element (R250, R252). -/
def Slot.reads (x : Slot) : Bool := x.rule != 0 && x.src != 0

/-- The reads of the payload of a new sheaf: each slot's source in each element, and whether R36 lets the engine read it. One that fails
names the pool's header, no node standing there yet (R252, R257, entry 47). -/
def ropeSheafReads (c : RopeCtx) (pay : Dword) (off len : Nat) : List (EngAcc × Bool) :=
  (List.range 4).flatMap (fun i =>
    let x := c.slot i
    if x.reads then tab len (fun e =>
      let o := (off + e) * 2 ^ c.desc.esz + x.off
      let a := raAdd pay o
      ({ r := c.req, a := a, n := x.bytes, op := .rd, xval := some c.desc.pool }, decide (raOffset pay + o + x.bytes ≤ spaceExtent (raSpace pay)) &&
        (raSpace pay != 6 || x.bytes == 8) && engineAddrOk a x.bytes 8))
    else [])

/-- The payload reads of the new sheaves of a tree. -/
def ropeReads (c : RopeCtx) : RTree → List (EngAcc × Bool)
  | .old _ _ => []
  | .sheaf _ pay off len => ropeSheafReads c pay off len
  | .node _ l r => ropeReads c l ++ ropeReads c r

/-- A sheaf's value of a slot at position p, from what its elements hold (R254). -/
def ropeSheafSum (x : Slot) (p len : Nat) (raws : List Nat) : Nat :=
  if x.rule = 0 then 0
  else ((List.range len).zip raws).foldl (fun acc e =>
    slotOp x.op acc (slotValue x e.2 (if x.rule = 2 then e.1 else p + e.1))) (slotIdentity x.op)

/-- A sheaf's summaries at position p from the answers of its reads, and the answers that are left. -/
def ropeSheafSums (c : RopeCtx) (p len : Nat) (vs : List Nat) : List Nat × List Nat :=
  (List.range 4).foldl (fun st i =>
    let x := c.slot i
    if x.reads then (st.1 ++ [ropeSheafSum x p len (st.2.take len)], st.2.drop len)
    else (st.1 ++ [ropeSheafSum x p len (List.replicate len 0)], st.2)) ([], vs)

/-- A stook's summaries at position p from those of its children, and its absoff (R254). -/
def ropeStookSums (c : RopeCtx) (p n : Nat) (l r : List Nat × Nat) : List Nat × Nat :=
  let valid := l.2 = p ∧ r.2 = p + n
  (tab 4 (fun i =>
    let x := c.slot i
    let a := l.1.getD i 0
    let b := r.1.getD i 0
    match x.rule with
    | 1 => slotOp x.op a b
    | 2 => slotRelative x.op a b n (r.1.getD x.comp 0)
    | 3 => if valid then slotOp x.op a b else 0
    | _ => 0), if valid then p else noAbs)

/-- A reference to a node: one of the pool, or a new one by its number. -/
inductive RRef where
  | old (h : Dword)
  | new (seq : Nat)
  deriving DecidableEq, Repr

/-- A node to be written: its number, children or payload, the word of its bytes but for the children's indices. -/
structure RNew where
  seq  : Nat
  kids : Option (RRef × RRef)
  word : Nat
  deriving DecidableEq, Repr

def RTree.ref : RTree → RRef
  | .old h _ => .old h
  | .sheaf q _ _ _ => .new q
  | .node q _ _ => .new q

/-- The bits of a new node that both kinds have: refcount 1, descriptor id, absoff, summaries. -/
def ropeWord (c : RopeCtx) (height : Nat) (s : List Nat × Nat) : Nat :=
  height + c.did * 256 + 2 ^ 32 + s.2 * 2 ^ 192 + sumUp 4 (fun i => s.1.getD i 0 * 2 ^ (256 + 64 * i))

/-- The new nodes of a tree at position p, children first, with its summaries and absoff, from the answers of `ropeReads`; and the answers
that are left (R254, R258). -/
def ropeNews (c : RopeCtx) : RTree → Nat → List Nat → (List RNew × List Nat × Nat) × List Nat
  | .old _ n, _, vs => (([], n.sums, n.absoff), vs)
  | .sheaf q pay off len, p, vs =>
    let (sums, vs) := ropeSheafSums c p len vs
    let w := ropeWord c 0 (sums, p) + pay.toNat * 2 ^ 64 + off % 2 ^ 32 * 2 ^ 128 + len % 65536 * 2 ^ 160 + c.desc.esz * 2 ^ 176
    (([{ seq := q, kids := none, word := w }], sums, p), vs)
  | .node q l r, p, vs =>
    let ((ls, lsum), vs) := ropeNews c l p vs
    let ((rs, rsum), vs) := ropeNews c r (p + l.count) vs
    let s := ropeStookSums c p l.count lsum rsum
    let t := RTree.node q l r
    let w := ropeWord c t.height s + t.count % 2 ^ 48 * 2 ^ 128
    ((ls ++ rs ++ [{ seq := q, kids := some (l.ref, r.ref), word := w }], s), vs)

/-! ## References (R256) -/

/-- The pool's head is popped: its index, none where the pool is empty; a failing access names the header or the node concerned. -/
def ropePop (c : RopeCtx) : Eng (Option Nat) :=
  let hd := c.desc.pool
  Eng.loop none (do
    let h ← Eng.naming hd (Eng.rdN c.req (raAdd hd 16) 8)
    let i := h % 2 ^ 32
    if i = 0xFFFFFFFF then pure (some none)
    else do
      let x ← c.node i hd
      let nx ← Eng.naming x (Eng.chk c.req (raAdd x 8) 4 8 .rd)
      let old ← Eng.naming hd (Eng.acc c.req (raAdd hd 16) 8 (.cas h ((h / 2 ^ 32 + 1) % 2 ^ 32 * 2 ^ 32 + nx)))
      pure (if old = h then some (some i) else none))

/-- A node is pushed: its next index, then the pool's head. -/
def ropePush (c : RopeCtx) (x : Dword) : Eng Unit :=
  let hd := c.desc.pool
  Eng.loop () (do
    let h ← Eng.rdN c.req (raAdd hd 16) 8
    Eng.wrN c.req (raAdd x 8) 4 (h % 2 ^ 32)
    let was ← Eng.acc c.req (raAdd hd 16) 8 (.cas h ((h / 2 ^ 32 + 1) % 2 ^ 32 * 2 ^ 32 + ((c.index x).getD 0)))
    pure (if was = h then some () else none))

/-- The pool's count of allocated nodes changes by n modulo 2^32. -/
def ropeInuse (c : RopeCtx) (n : Nat) : Eng Unit := do
  let _ ← Eng.naming c.desc.pool (Eng.acc c.req (raAdd c.desc.pool 24) 4 (.amo .add n))
  pure ()

/-- Alloc: an empty pool abandons with its header; a node popped whose count cannot be made joins the free list again (R257). -/
def ropeAlloc (c : RopeCtx) : Eng Nat := do
  match ← ropePop c with
  | none => Eng.refuse c.desc.pool
  | some i => do
    Eng.undoing (ropePush c (c.handle i)) (ropeInuse c 1)
    pure i

/-- Hold(x). -/
def ropeHold (c : RopeCtx) (x : Dword) : Eng Unit := Eng.naming x (Eng.loop () (do
  let old ← Eng.chk c.req (raAdd x 4) 4 8 .rd
  Eng.need (old != 0 && old != 0xFFFFFFFF) x
  let was ← Eng.acc c.req (raAdd x 4) 4 (.cas old (old + 1))
  pure (if was = old then some () else none)))

/-- A node joins the free list: its height and refcount are written, its next index, the pool's head and count (R256). -/
def ropeFree (c : RopeCtx) (x : Dword) : Eng Unit := do
  Eng.wrN c.req x 8 0xFF
  ropePush c x
  ropeInuse c (2 ^ 32 - 1)

/-- The refcount of x goes down by one: what it was; or why it does not: x, whose refcount of 0 abandons (true), or the address of an access
that failed (R256). -/
def ropeLess (c : RopeCtx) (x : Dword) : Eng (Except (Bool × Dword) Nat) :=
  Eng.loop (.ok 0) (do
    match ← Eng.soft (Eng.chk c.req (raAdd x 4) 4 8 .rd) with
    | .error v => pure (some (.error (false, v)))
    | .ok old =>
      if old = 0 then pure (some (.error (true, x)))
      else match ← Eng.soft (Eng.acc c.req (raAdd x 4) 4 (.cas old (old - 1))) with
        | .error v => pure (some (.error (false, v)))
        | .ok was => pure (if was = old then some (.ok old) else none))

/-- A step of a release: the refcount of x has gone down by one; or x is to join the free list. -/
inductive RStep where
  | less (x : Dword)
  | free (x : Dword)
  deriving DecidableEq, Repr

/-- What releases have come to: their steps, the last one first, and what stopped them: abandoned at a node (true), or an access that
failed. -/
structure Released where
  steps : List RStep := []
  stop  : Option (Bool × Dword) := none

/-- The heights of the children that a release reads of a node obey R253: each is one or two below it, and the larger of two is one below
it. -/
def heightsOk (h : Nat) (kids : List (Option Nat)) : Bool :=
  let l := kids.filterMap id
  l.all (fun k => decide (k + 1 ≤ h ∧ h ≤ k + 2)) && (decide (l.length < 2) || l.any (fun k => k + 1 == h))

/-- Release(x), by fuel on the height, and the height of x where it is read: the refcounts go down, and the nodes that are to join the free
list are noted (R256, R257, entry 47). -/
def ropeReleaseF (c : RopeCtx) : Nat → Dword → Released → Eng (Released × Option Nat)
  | 0, _, st => pure (st, none)
  | f + 1, x, st =>
    let stop (st : Released) (abandon : Bool) (v : Dword) : Released × Option Nat := ({ st with stop := some (abandon, v) }, none)
    let kid (i : Nat) (st : Released) : Eng (Released × Option Nat) :=
      if c.desc.count ≤ i then pure (stop st true (c.handle i)) else ropeReleaseF c f (c.handle i) st
    if x = 0 ∨ st.stop.isSome then pure (st, none)
    else do
      match ← ropeLess c x with
      | .error e => pure (stop st e.1 e.2)
      | .ok old =>
        let st := { st with steps := .less x :: st.steps }
        if old ≠ 1 then pure (st, none)
        else
          match ← Eng.soft (Eng.chk c.req x 64 8 .rd) with
          | .error v => pure (stop st false v)
          | .ok w =>
            let n := rnodeOf w
            if n.ok c = false then pure (stop st true x)
            else
              let (st, l) ← if n.height = 0 then pure (st, none) else kid n.left st
              let (st, r) ← if n.height = 0 ∨ st.stop.isSome then pure (st, none) else kid n.right st
              if st.stop.isSome then pure (st, none)
              else if heightsOk n.height [l, r] = false then pure (stop st true x)
              else pure ({ st with steps := .free x :: st.steps }, some n.height)

/-- The refcount of x goes up again by one, as a Hold raises it; a node that is free by then, a count that cannot go up and an access that
fails are left as they stand (R253, R256, entry 47). -/
def ropeMore (c : RopeCtx) (x : Dword) : Eng Unit := do
  let _ ← Eng.soft (Eng.loop () (do
    let w ← Eng.rdN c.req x 8
    let old := w / 2 ^ 32
    if w % 256 = 0xFF ∨ old = 0xFFFFFFFF then pure (some ())
    else do
      let was ← Eng.acc c.req (raAdd x 4) 4 (.cas old (old + 1))
      pure (if was = old then some () else none)))
  pure ()

/-- The refcounts that steps have lowered go up again, the last one first. -/
def ropeRestore (c : RopeCtx) (steps : List RStep) : Eng Unit :=
  steps.reverse.forM (fun x => match x with
    | .less x => ropeMore c x
    | .free _ => pure ())

/-- The nodes that releases free join the free list in program order; where an access fails, the releases have come no further: the
refcounts that go down after it are as they were. The address of the failure (R256, R257). -/
def ropeFrees (c : RopeCtx) : List RStep → Eng (Option Dword)
  | [] => pure none
  | .less _ :: l => ropeFrees c l
  | .free x :: l => do
    match ← Eng.soft (ropeFree c x) with
    | .ok () => ropeFrees c l
    | .error v => do
      ropeRestore c l
      pure (some v)

/-- Releases of handles in order: the address of an access that failed and stopped them, if any. Nodes join the free list once every
refcount of the releases has gone down, so that one that abandons leaves every refcount as it was and no node that another engine could have
taken (R256, R257, entry 47). -/
def ropeReleases (c : RopeCtx) (xs : List Dword) : Eng (Option Dword) := do
  let st ← xs.foldlM (fun st x => do pure (← ropeReleaseF c 256 x st).1) ({} : Released)
  let steps := st.steps.reverse
  match st.stop with
  | some (true, v) => Eng.undoing (ropeRestore c steps) (Eng.refuse v)
  | stop => do pure ((← ropeFrees c steps).or (stop.map (·.2)))

/-! ## Build and commit (R257) -/

/-- The new nodes by number. -/
def newsBySeq (l : List RNew) : List RNew := l.foldl (fun acc x => (acc.filter (fun y => y.seq < x.seq)) ++ [x] ++
  acc.filter (fun y => !(decide (y.seq < x.seq)))) []

/-- The handle of a reference, given the indices of the new nodes. -/
def RopeCtx.refHandle (c : RopeCtx) (ix : SMap Nat) : RRef → Dword
  | .old h => h
  | .new q => c.handle (mget 0 q ix)

/-- Nodes are allocated in order, then k runs with their indices; where it abandons, they join the free list again (R257, R267). -/
def ropeAllocs (c : RopeCtx) : List RNew → SMap Nat → (SMap Nat → Eng α) → Eng α
  | [], m, k => k m
  | x :: xs, m, k => do
    let i ← ropeAlloc c
    Eng.undoing (ropeFree c (c.handle i)) (ropeAllocs c xs (mput x.seq i m) k)

/-- Existing nodes are held in order, then k runs; where it abandons, they are released again (R257). -/
def ropeHolds (c : RopeCtx) : List Dword → Eng α → Eng α
  | [], k => k
  | h :: hs, k => do
    ropeHold c h
    Eng.undoing (do let _ ← ropeReleases c [h]; pure ()) (ropeHolds c hs k)

/-- The results of an operation are built and committed: new nodes allocated in the order of creation and written, existing ones held,
the consumed handles released. The handles, and the address at which the commit stopped (R257 steps 3 and 4, R267). -/
def ropeCommit (c : RopeCtx) (results : List (Option RTree)) (consumed : List Dword) : Eng (List Dword × Option Dword) := do
  let trees := results.filterMap id
  let reads := trees.flatMap (ropeReads c)
  Eng.refuseIf ((reads.find? (fun x => !x.2)).map (fun x => x.1.a))
  let vs ← Eng.many (reads.map (·.1))
  let news := newsBySeq (trees.foldl (fun st t => let x := ropeNews c t 0 st.2; (st.1 ++ x.1.1, x.2)) (([] : List RNew), vs)).1
  ropeAllocs c news [] (fun ix => do
    let word (x : RNew) : Nat := x.word + (match x.kids with
      | some (l, r) => ((c.index (c.refHandle ix l)).getD 0) * 2 ^ 64 + ((c.index (c.refHandle ix r)).getD 0) * 2 ^ 96
      | none => 0)
    let at_ (x : RNew) : Dword := c.handle (mget 0 x.seq ix)
    let _ ← Eng.many (news.map (fun x =>
      { r := c.req, a := at_ x, n := 64, op := .wr (word x % 2 ^ 512) (fullMask 64), xval := some (at_ x) }))
    let held := news.flatMap (fun x => match x.kids with
      | some (l, r) => [l, r]
      | none => []) ++ results.filterMap (fun r => r.map RTree.ref)
    ropeHolds c (held.filterMap (fun r => match r with | .old h => some h | .new _ => none)) (do
      let stop ← ropeReleases c consumed
      pure (results.map (fun r => match r with
        | none => 0
        | some t => c.refHandle ix t.ref), stop)))

end Sys2Proof.Machine
end

