-- ==== Sys2Proof/Machine/RopeI.lean ====
section
/-! DEFINITION. The twelve rope instructions and the rope engine's run of one operation (R257, R259 to R266). -/

namespace Sys2Proof.Machine

/-! ## Kicks -/

/-- The queue of the rope engine of the issuer's cluster (R48). -/
def toRope (o : EngOp) (s : State) : State :=
  s.modClu (cluOf o.iss.core) (fun x => { x with ropeq := x.ropeq ++ [o] })

/-- Read a register and then a group (R136). -/
def readThen (s : State) (d r : Fin 24) (n : Nat) : Except Halt (List Dword) := do
  let x ← readG s d
  let ys ← readGroup s r n
  .ok (x :: ys)

/-- RPNEW (R261). -/
def execRpnew (d r : Fin 24) (s : State) : Host.Outcome State Fault Refusal :=
  finish s (s.kick (.rpnew d r) (readGroup s r 3) toRope)

/-- RPCAT (R262). -/
def execRpcat (d r : Fin 24) (s : State) : Host.Outcome State Fault Refusal :=
  finish s (s.kick (.rpcat d r) (readThen s d r 1) toRope)

/-- RPSPLIT (R262). -/
def execRpsplit (d r : Fin 24) (s : State) : Host.Outcome State Fault Refusal :=
  finish s (s.kick (.rpsplit d r) (readThen s d r 1) toRope)

/-- RPSPLICE (R262). -/
def execRpsplice (d r : Fin 24) (keep : Bool) (s : State) : Host.Outcome State Fault Refusal :=
  finish s (s.kick (.rpsplice d r keep) (readThen s d r 3) toRope)

/-- RPLEN (R263). -/
def execRplen (d r : Fin 24) (s : State) : Host.Outcome State Fault Refusal :=
  finish s (s.kick (.rplen d r) (readGroup s r 1) toRope)

/-- RPSUM (R263). -/
def execRpsum (d r : Fin 24) (n : Fin 4) (s : State) : Host.Outcome State Fault Refusal :=
  finish s (s.kick (.rpsum d r n) (readGroup s r 1) toRope)

/-- RPFIND (R264). -/
def execRpfind (d r : Fin 24) (s : State) : Host.Outcome State Fault Refusal :=
  finish s (s.kick (.rpfind d r) (readGroup s r 2) toRope)

/-- RPSCAN (R265). -/
def execRpscan (d r : Fin 24) (s : State) : Host.Outcome State Fault Refusal :=
  finish s (s.kick (.rpscan d r) (readGroup s r 6) toRope)

/-- RPHOLD (R266). -/
def execRphold (d : Fin 24) (s : State) : Host.Outcome State Fault Refusal :=
  finish s (s.kick (.rphold d) (readGroup s d 1) toRope)

/-- RPDROP (R266). -/
def execRpdrop (d : Fin 24) (s : State) : Host.Outcome State Fault Refusal :=
  finish s (s.kick (.rpdrop d) (readGroup s d 1) toRope)

/-- RPDESC: an id above 15 is an illegal operand at issue (R260). -/
def execRpdesc (d r : Fin 24) (s : State) : Host.Outcome State Fault Refusal :=
  finish s (do
    let id ← readG s d
    if s.cth.posted.isNone ∧ 16 ≤ id.toNat then .error (.trap 0x01 (s.baseIllegal 10))
    else s.kick (.rpdesc d r) (readThen s d r 1) toRope)

/-- RPREFR (R266). -/
def execRprefr (d : Fin 24) (s : State) : Host.Outcome State Fault Refusal :=
  finish s (s.kick (.rprefr d) (readGroup s d 1) toRope)

/-! ## The operations -/

/-- What an operation posts: register results, the handles it returns, the failure that stopped its commit (R257). -/
structure RopeOut where
  regs    : List (Fin 24 × Dword) := []
  handles : List Dword := []
  late    : Option Dword := none
  deriving DecidableEq, Repr

/-- A register of the group from d. -/
def gAt (d : Fin 24) (i : Nat) : Fin 24 := Fin.ofNat 24 (d.val + i)

/-- An address in cluster store or global memory, 64-byte aligned (R247, R248). -/
def ropePlace (a : Dword) : Bool := decide (3 ≤ raSpace a ∧ raSpace a ≤ 5) && decide (a.toNat % 64 = 0)

/-- The key of a binding (R260). -/
def bindKey (p id : Nat) : Nat := 16 * p + id

/-- The context of a bound id; an unbound one refuses with v (R257). -/
def ropeCtx (r : Req) (id : Nat) (v : Dword) : Eng RopeCtx := do
  let s ← get
  match (if id < 16 then mfind (bindKey r.tag id) (s.clu r.port).binds else none) with
  | some d => pure { req := r, did := id, desc := d }
  | none => Eng.refuse v

/-- The root at a handle, with the context of its descriptor, which must be that of the operation's other handles (R257). -/
def ropeRoot (r : Req) (c : Option RopeCtx) (h : Dword) : Eng (Option RopeCtx × Option RTree) :=
  if h = 0 then pure (c, none)
  else do
    Eng.need (ropePlace h) h
    let x ← Eng.chk r h 64 8 .rd
    let id := bits x 15 8
    let c ← match c with
      | some c => do Eng.need (id == c.did) h; pure c
      | none => ropeCtx r id h
    let t ← ropeSeen c h x
    pure (some c, some t)

/-- An operation that changes its pool may read and write the header (R36). -/
def ropeWrites (c : RopeCtx) : Eng Unit := Eng.need (engineAddrOk c.desc.pool 64 8 && engineAddrOk c.desc.pool 64 4) c.desc.pool

/-- Build and commit with an operation's context; one without any handle has no ropes. -/
def ropeDeliver (c : Option RopeCtx) (results : List (Option RTree)) (consumed : List Dword) : Eng (List Dword × Option Dword) :=
  match c with
  | none => pure (results.map (fun _ => 0), none)
  | some c => do
    ropeWrites c
    ropeCommit c results consumed

/-- A pool header (R247): base and count. -/
def poolOf (r : Req) (pool : Dword) : Eng (Dword × Nat) := do
  Eng.need (ropePlace pool) pool
  let x ← Eng.chk r pool 64 8 .rd
  let base : Dword := BitVec.ofNat 64 x
  let n := bits x 95 64
  Eng.need (decide (bits x 511 224 = 0 ∧ bits x 127 96 = 0 ∧ 1 ≤ n ∧ n ≤ 0xFFFFFFFE) && ropePlace base && raListed base &&
    decide (raRights base &&& 13 = 13) && decide (raOffset base + 64 * n ≤ spaceExtent (raSpace base))) pool
  pure (base, n)

/-- RPDESC: the record and its pool header are read and bound; an id in use keeps its binding (R260). -/
def ropeBind (r : Req) (id : Nat) (rec : Dword) : Eng RopeOut := do
  let s ← get
  match mfind (bindKey r.tag id) (s.clu r.port).binds with
  | some d => do
    let n ← Eng.naming d.pool (Eng.chk r (raAdd d.pool 24) 4 8 .rd)
    Eng.need (n == 0) (if rec = 0 then d.pool else rec)
  | none => pure ()
  if rec = 0 then
    modify (fun s => s.modClu r.port (fun x => { x with binds := mdel (bindKey r.tag id) x.binds }))
  else
    Eng.need (ropePlace rec) rec
    let x ← Eng.chk r rec 64 8 .rd
    let pool : Dword := BitVec.ofNat 64 x
    let esz := bits x 67 64
    let slots := tab 4 (fun i => (BitVec.ofNat 64 (x / 2 ^ (256 + 64 * i)) : Dword))
    Eng.need (decide (bits x 255 68 = 0 ∧ esz ≤ 12) && (List.range 4).all (slotOk slots esz)) rec
    let (base, n) ← poolOf r pool
    let d : RopeDesc := { pool := pool, base := base, count := n, esz := esz, slots := slots }
    modify (fun s => s.modClu r.port (fun x => { x with binds := mput (bindKey r.tag id) d x.binds }))
  pure {}

/-- RPNEW (R261). -/
def ropeNew (r : Req) (d : Fin 24) (pay n w : Dword) : Eng RopeOut := do
  let m := bits w.toNat 24 16
  Eng.need (decide (bits w.toNat 63 25 = 0 ∧ bits w.toNat 15 4 = 0 ∧ 1 ≤ m ∧ m ≤ 256 ∧ n.toNat < 2 ^ 32)) pay
  let c ← ropeCtx r (w.toNat % 16) pay
  Eng.need (engineAddrOk pay 0 8 && decide (pay.toNat % 2 ^ c.desc.esz = 0)) pay
  let k := (n.toNat + m - 1) / m
  let sheaves := tab k (fun i => RTree.sheaf i pay (i * m) (min m (n.toNat - i * m)))
  let (t, _) ← (ropeBuildF k sheaves) k
  let (hs, late) ← ropeDeliver (some c) [t] []
  pure { regs := [(d, hs.getD 0 0)], handles := hs, late := late }

/-- RPCAT (R262). -/
def ropeCat (r : Req) (d : Fin 24) (l x : Dword) : Eng RopeOut := do
  let (c, a) ← ropeRoot r none l
  let (c, b) ← ropeRoot r c x
  Eng.need (decide (ropeCount a + ropeCount b < 2 ^ 48)) l
  match c with
  | none => pure { regs := [(d, 0)] }
  | some c =>
    let (t, _) ← (ropeJoin c a b) 0
    let (hs, late) ← ropeDeliver (some c) [t] [l, x]
    pure { regs := [(d, hs.getD 0 0)], handles := hs, late := late }

/-- RPSPLIT (R262). -/
def ropeSplitOp (r : Req) (d : Fin 24) (h k : Dword) : Eng RopeOut := do
  let (c, t) ← ropeRoot r none h
  Eng.need (decide (k.toNat ≤ ropeCount t)) h
  match c with
  | none => pure { regs := [(d, 0), (gAt d 1, 0)] }
  | some c =>
    let ((a, b), _) ← (ropeSplit c t k.toNat) 0
    let (hs, late) ← ropeDeliver (some c) [a, b] [h]
    pure { regs := [(d, hs.getD 0 0), (gAt d 1, hs.getD 1 0)], handles := hs, late := late }

/-- RPSPLICE: (T₀ ++ U) ++ T₂; where keep gives two results to one register, it takes a free value (R258, R262, entry 7). -/
def ropeSplice (r : Req) (d q : Fin 24) (keep : Bool) (h a b u : Dword) : Eng RopeOut := do
  let (c, t) ← ropeRoot r none h
  let (c, x) ← ropeRoot r c u
  Eng.need (decide (a.toNat ≤ b.toNat ∧ b.toNat ≤ ropeCount t)) h
  Eng.need (decide (ropeCount t - (b.toNat - a.toNat) + ropeCount x < 2 ^ 48)) h
  let (out, t1, hs, late) ← match c with
    | none => pure ((0 : Dword), (0 : Dword), ([] : List Dword), (none : Option Dword))
    | some c => do
      let (((y, t1)), _) ← (do
        let (t0, t12) ← ropeSplit c t a.toNat
        let (t1, t2) ← ropeSplit c t12 (b.toNat - a.toNat)
        let y ← ropeJoin c (← ropeJoin c t0 x) t2
        pure (y, t1) : Rp (Option RTree × Option RTree)) 0
      let (hs, late) ← ropeDeliver (some c) (if keep then [y, t1] else [y]) [h, u]
      pure (hs.getD 0 0, hs.getD 1 0, hs, late)
  if keep then
    let two ← if d = gAt q 2 then (do
        let (v, s) := (← get).freeW
        set s
        pure [(d, v)])
      else pure [(d, out), (gAt q 2, t1)]
    pure { regs := two, handles := hs, late := late }
  else pure { regs := [(d, out)], handles := hs, late := late }

/-- RPSUM (R263). -/
def ropeSum (r : Req) (d : Fin 24) (n : Nat) (h : Dword) : Eng RopeOut := do
  let (c, t) ← ropeRoot r none h
  let (v, st) : Nat × Nat := match c, t with
    | some c, some (.old _ x) =>
      let sl := c.slot n
      if sl.rule = 0 then (0, 2)
      else if sl.rule = 3 ∧ x.absoff ≠ 0 then (0, 1)
      else (x.sums.getD n 0, 0)
    | _, _ => (0, 3)
  pure { regs := [(d, BitVec.ofNat 64 v), (gAt d 1, BitVec.ofNat 64 st)] }

/-- The sheaf that holds position p below a tree that starts at `first`, by fuel on the height (R264). -/
def ropeFindF (c : RopeCtx) : Nat → RTree → Nat → Nat → Eng (Dword × Nat)
  | 0, _, _, first => pure (0, first)
  | f + 1, t, p, first => do
    if t.height = 0 then
      match t with
      | .old h _ => pure (h, first)
      | _ => pure (0, first)
    else
      let (l, r) ← ropeKids c t
      if p < first + l.count then ropeFindF c f l p first else ropeFindF c f r p (first + l.count)

/-- RPFIND (R264). -/
def ropeFind (r : Req) (d : Fin 24) (h p : Dword) : Eng RopeOut := do
  let (c, t) ← ropeRoot r none h
  let (x, i, first) ← match c, t with
    | some c, some t => (if p.toNat < t.count then (do
        let (x, first) ← ropeFindF c 256 t p.toNat 0
        pure (x, p.toNat - first, first))
      else pure ((0 : Dword), 0, t.count) : Eng (Dword × Nat × Nat))
    | _, _ => pure ((0 : Dword), 0, 0)
  pure { regs := [(d, x), (gAt d 1, BitVec.ofNat 64 i), (gAt d 2, BitVec.ofNat 64 first)] }

/-- A scan: the range, the threshold, the slot, the comparison, the capacity, the list (R265). -/
structure Scan where
  lo   : Nat
  hi   : Nat
  thr  : Nat
  slot : Nat
  cmp  : Nat
  cap  : Nat
  list : Dword
  deriving DecidableEq, Repr

/-- The comparison of a summary of an op with the threshold (R265). -/
def scanTest (op cmp x thr : Nat) : Bool :=
  let pick (eq lt un : Bool) : Bool :=
    match cmp with
    | 0 => eq | 1 => !eq | 2 => lt | 3 => lt || eq | 4 => !lt && !eq && !un | _ => !lt && !un
  match op with
  | 1 => let a := decodeF .f64 x; let b := decodeF .f64 thr; pick (fpEq a b) (fpLt a b) (a.isNan || b.isNan)
  | 2 | 3 => let a := decodeF .f32 (x % 2 ^ 32); let b := decodeF .f32 (thr % 2 ^ 32); pick (fpEq a b) (fpLt a b) (a.isNan || b.isNan)
  | 5 => pick (x == thr) (decide (x < thr)) false
  | _ => pick (x == thr) (decide (toSigned 64 x < toSigned 64 thr)) false

/-- The pairs under which a failing stook is skipped (R265). -/
def scanPrunes (op cmp : Nat) : Bool :=
  ((op == 2 || op == 4) && (cmp == 4 || cmp == 5)) || (op == 3 && (cmp == 2 || cmp == 3))

/-- The scan below a tree at a position, by fuel on the height: the entries of the list, the last one first, and where it stopped (R265). -/
def ropeScanF (c : RopeCtx) (q : Scan) : Nat → RTree → Nat → List Nat × Option Nat → Eng (List Nat × Option Nat)
  | 0, _, _, st => pure st
  | f + 1, t, pos, st =>
    match t with
    | .old h n =>
      if st.2.isSome ∨ min q.hi (pos + n.count) ≤ max q.lo pos then pure st
      else
        let x := c.slot q.slot
        let stale := x.rule == 3 && n.absoff != pos
        let pass := scanTest x.op q.cmp (n.sums.getD q.slot 0) q.thr
        if n.height = 0 then
          if !stale && !pass then pure st
          else
            let first := max q.lo pos - pos
            let last := min q.hi (pos + n.count)
            let a := raAdd n.pay ((n.off + first) * 2 ^ c.desc.esz)
            let e := h.toNat + (pos + first) * 2 ^ 64 + first * 2 ^ 128 + (last - pos - first) * 2 ^ 160 + b2n stale * 2 ^ 191 +
              a.toNat * 2 ^ 192
            pure (e :: st.1, if st.1.length + 1 = q.cap ∧ last < q.hi then some last else none)
        else if !stale && !pass && scanPrunes x.op q.cmp then pure st
        else do
          let (l, r) ← ropeKids c t
          let st ← ropeScanF c q f l pos st
          ropeScanF c q f r (pos + l.count) st
    | _ => pure st

/-- The entries of a scan's list are stored once the way of all of them is clear: an operation that the router of the list's core drops has
stored none (R257, R265, R355). The check is a store of no bytes. -/
def ropeList (r : Req) (list : Dword) (es : List Nat) : Eng Unit :=
  if es = [] then pure ()
  else do
    let l ← Eng.found r list
    let _ ← Eng.one { r := r, a := list, n := 32 * es.length, op := .wr 0 0, place := l }
    let _ ← Eng.many (((List.range es.length).zip es).map (fun e =>
      { r := r, a := raAdd list (32 * e.1), n := 32, op := .wr e.2 (fullMask 32), place := l.map (fun l => l.plus (32 * e.1)), clear := true }))
    pure ()

/-- RPSCAN (R265). -/
def ropeScan (r : Req) (d : Fin 24) (g : List Dword) : Eng RopeOut := do
  let h := g.getD 0 0
  let w := (g.getD 4 0).toNat
  let q : Scan := {
    lo := (g.getD 1 0).toNat, hi := (g.getD 2 0).toNat, thr := (g.getD 3 0).toNat, slot := w % 4, cmp := bits w 4 2, cap := bits w 63 32
    list := g.getD 5 0 }
  let (c, t) ← ropeRoot r none h
  Eng.need (decide (q.lo ≤ q.hi ∧ q.hi ≤ ropeCount t ∧ q.cmp < 6 ∧ bits w 31 5 = 0)) h
  Eng.need (engineAddrOk q.list 0 4 && decide (raSpace q.list ≤ 2 ∧ q.list.toNat % 32 = 0)) q.list
  let st0 : List Nat × Option Nat := ([], if q.cap = 0 ∧ q.lo < q.hi then some q.lo else none)
  let (es, stop) ← match c, t with
    | some c, some t => ropeScanF c q 256 t 0 st0
    | _, _ => pure st0
  Eng.need (decide (raOffset q.list + 32 * es.length ≤ spaceExtent (raSpace q.list))) q.list
  ropeList r q.list es.reverse
  pure { regs := [(d, BitVec.ofNat 64 es.length), (gAt d 1, BitVec.ofNat 64 (stop.getD q.hi))] }

/-- The operation of an instruction (R259). -/
def ropeBody (k : Nat) (o : EngOp) : Eng RopeOut := do
  let r : Req := {
    core := o.iss.core, port := k, tag := o.iss.tag, thr := false, kind := 2, unit := cluIdx k, uid := o.iss.uid, id := 1 }
  let g (i : Nat) : Dword := o.args.getD i 0
  -- the cores of the I/O die stand in no cluster (entry 8)
  Eng.need (decide (cluIdx k < 32)) (g 0)
  match o.ins with
  | .rpnew d _ => ropeNew r d (g 0) (g 1) (g 2)
  | .rpcat d _ => ropeCat r d (g 0) (g 1)
  | .rpsplit d _ => ropeSplitOp r d (g 0) (g 1)
  | .rpsplice d q keep => ropeSplice r d q keep (g 0) (g 1) (g 2) (g 3)
  | .rplen d _ => do
    let (_, t) ← ropeRoot r none (g 0)
    pure { regs := [(d, BitVec.ofNat 64 (ropeCount t))] }
  | .rpsum d _ n => ropeSum r d n.val (g 0)
  | .rpfind d _ => ropeFind r d (g 0) (g 1)
  | .rpscan d _ => ropeScan r d o.args
  | .rphold _ => do
    let (c, t) ← ropeRoot r none (g 0)
    match c, t with
    | some c, some _ => do ropeHold c (g 0); pure {}
    | _, _ => pure {}
  | .rpdrop _ => do
    let (c, _) ← ropeRoot r none (g 0)
    let (_, late) ← ropeDeliver c [] [g 0]
    pure { late := late }
  | .rpdesc _ _ => ropeBind r ((g 0).toNat % 16) (g 1)
  | .rprefr d => do
    let (c, t) ← ropeRoot r none (g 0)
    match c, t with
    | some c, some t =>
      let (t, _) ← (ropeRefreshF c 256 t 0) 0
      let (hs, late) ← ropeDeliver (some c) [some t] [g 0]
      pure { regs := [(d, hs.getD 0 0)], handles := hs, late := late }
    | _, _ => pure { regs := [(d, 0)] }
  | _ => pure {}

/-- Run the operation at the head of cluster k's rope engine, or its next access: its post, its refusal or abandonment, or a pause (R257,
R348). -/
def State.ropeRun (s : State) (k : Nat) : Option State :=
  match (s.clu k).ropeq with
  | [] => none
  | o :: os =>
    if o.paused.isSome then none
    else
      let put (s : State) (o : Option EngOp) : State := s.modClu k (fun x => { x with ropeq := o.toList ++ os })
      some (o.run s put (ropeBody k o)
        (fun s out => s.addPost o.iss { res := out.regs, err := none, late := out.late } out.handles)
        (fun s v => s.addPost o.iss { res := [], err := some v }))

/-- ROPE_ENGINE_RUN (R257). -/
def execRopeEngineRun (k : Nat) (s : State) : Host.Outcome State Fault Refusal := event s (s.ropeRun k)

/-- The handles of post i to a thread that no longer waits are released, and the post is gone (R257); a page or tokens may have to come
first. -/
def State.ropeUndo (s : State) (i : Nat) (p : Post) : State :=
  let k := cluOf p.iss.core
  let r : Req := {
    core := p.iss.core, port := k, tag := p.iss.tag, thr := false, kind := 2, unit := cluIdx k, uid := p.iss.uid, id := 2 }
  let e : Eng Unit := p.handles.forM (fun h => do
    let _ ← Eng.soft (do
      let (c, _) ← ropeRoot r none h
      let _ ← ropeDeliver c [] [h]
      pure ())
    pure ())
  match Eng.run s p.trail p.poison.toList e with
  | .done s () | .refused s _ => { s with posts := ldel s.posts i }
  | .more s t => { s with posts := lset s.posts i { p with trail := t, poison := none } }
  | .paused s t key => { s with posts := lset s.posts i { p with trail := t, paused := some key, poison := none } }
  | .again s t _ => { s with posts := lset s.posts i { p with trail := t } }

end Sys2Proof.Machine
end

