-- ==== Sys2Proof/Machine/GenI.lean ====
section
/-! DEFINITION. Draws and acceptance, the generation table unit, the unmasking engine, GWTAKE and the link block queue, the posts of
waiting engines (R48, R223, R270 to R283). -/

namespace Sys2Proof.Machine

/-! ## RAND and ACCEPT (R271 to R274) -/

/-- Rounds of Philox-4x32-10: the words c0 to c3 after n more rounds; r tells the first, which bumps no key (R271). -/
def philoxRounds : Nat → Bool → Nat × Nat → Nat × Nat × Nat × Nat → Nat × Nat × Nat × Nat
  | 0, _, _, c => c
  | n + 1, first, k, c =>
    let k := if first then k else ((k.1 + 0x9E3779B9) % 2 ^ 32, (k.2 + 0xBB67AE85) % 2 ^ 32)
    let p0 := 0xD2511F53 * c.1
    let p1 := 0xCD9E8D57 * c.2.2.1
    philoxRounds n false k
      (Nat.xor (Nat.xor (p1 / 2 ^ 32) c.2.1) k.1, p1 % 2 ^ 32, Nat.xor (Nat.xor (p0 / 2 ^ 32) c.2.2.2) k.2, p0 % 2 ^ 32)

/-- The draw of a key at a position, a draw index and a lane (R271, R272). -/
def philox (key : Dword) (pos index lane : Nat) : Nat × Nat × Nat × Nat :=
  philoxRounds 10 true (key.toNat % 2 ^ 32, key.toNat / 2 ^ 32) (pos % 2 ^ 32, index % 2 ^ 32, lane % 2 ^ 32, 0)

/-- U(x), exact (R271). -/
def drawFp (x : Nat) : Fp := .fin false (bits x 31 8) (-24)
def drawU (x : Nat) : Dword := BitVec.ofNat 64 (roundTo .f32 .rne false (drawFp x)).1

/-- RAND (R271). -/
def execRand (d r : Fin 24) (u : Bool) (s : State) : Host.Outcome State Fault Refusal :=
  finish s (do
    let g ← readGroup s r 3
    let w1 := (g.getD 1 0).toNat
    let w2 := (g.getD 2 0).toNat
    if w2 / 2 ^ 32 ≠ 0 then .error (.trap 0x01 (s.baseIllegal 10))
    else
      let c := philox (g.getD 0 0) (w1 % 2 ^ 32) (w1 / 2 ^ 32) w2
      done (writeGroup s d (if u then [drawU c.1, drawU c.2.1]
        else [BitVec.ofNat 64 (c.2.1 * 2 ^ 32 + c.1), BitVec.ofNat 64 (c.2.2.2 * 2 ^ 32 + c.2.2.1)])))

/-- A probability as ACCEPT reads it: a NaN, an infinity or a value below +0 counts as 0 (R274). -/
def probOf (x : Nat) : Fp :=
  match decodeF .f32 x with
  | .fin false m e => .fin false m e
  | _ => .fin false 0 0

/-- One entry of an acceptance block: accepted, out of vocabulary (R274). -/
def acceptEntry (key : Dword) (h e lane : Nat) : Bool × Bool :=
  let id := bits e 31 0
  let u := drawFp (philox key (bits e 63 32) 0 lane).1
  let oov := decide (bits h 63 32 ≤ id) || (decide (bits h 95 64 ≤ id) && decide (id < bits h 127 96))
  let p := if oov then Fp.fin false 0 0 else probOf (bits e 95 64)
  (fpLt (fpMul u (probOf (bits e 127 96))).1 p, oov)

/-- The entries of an acceptance block read from entry i up, n of them (R274). -/
def acceptFrom (via : Via) (key a : Dword) (h : Nat) : Nat → Nat → State → Except Halt (State × List (Bool × Bool))
  | 0, _, s => .ok (s, [])
  | n + 1, i, s => do
    let b := raAdd a (32 + 16 * i)
    let (s, e) ← via s b 16 .rd
    let (s, rest) ← acceptFrom via key a h n (i + 1) s
    .ok (s, acceptEntry key h e (bits h (128 + 8 * i + 7) (128 + 8 * i)) :: rest)

/-- A word whose bit i is f of the i-th element. -/
def maskOf (f : α → Bool) (l : List α) : Dword :=
  BitVec.ofNat 64 (((List.range l.length).zip l).foldl (fun n e => n + b2n (f e.2) * 2 ^ e.1) 0)

/-- ACCEPT (R273, R274). -/
def execAccept (d r : Fin 24) (s : State) : Host.Outcome State Fault Refusal :=
  finish s (do
    let g ← readGroup s r 2
    let a := g.getD 0 0
    let l := s.place s.cur.core s.ctag (raSpace a) (raField a)
    if raSpace a < 1 ∨ 5 < raSpace a ∨ raRights a &&& 8 = 0 ∨ ¬ inReach s.cur.core l then .error (.trap 0x04 a)
    else if a.toNat % 32 ≠ 0 then .error (.trap 0x05 a)
    else
      let run (via : Via) (s : State) : Eff := do
        let (s, h) ← via s a 32 .rd
        let n := bits h 4 0
        if n = 0 ∨ 16 < n ∨ bits h 31 5 ≠ 0 then .error (.trapIn s 0x0D a)
        else
          let (s, es) ← acceptFrom via (g.getD 1 0) a h n 0 s
          done (writeGroup s d [maskOf (·.1) es, maskOf (·.2) es])
      s.tracked (run viaWhole) (run State.onceAddress))

/-! ## Kicks -/

/-- The queue of the generation table unit of the issuer's cluster (R48). -/
def toGen (o : EngOp) (s : State) : State := s.modClu (cluOf o.iss.core) (fun x => { x with genq := x.genq ++ [o] })
/-- The queue of the unmasking engine of the issuer's cluster (R48). -/
def toUnm (o : EngOp) (s : State) : State := s.modClu (cluOf o.iss.core) (fun x => { x with unmq := x.unmq ++ [o] })
/-- The link block queue of the gateway's port (R223). -/
def toGw (o : EngOp) (s : State) : State := s.modPort (gwPort o.iss.core) (fun x => { x with gwq := x.gwq ++ [o] })

/-- SPOBS (R275). -/
def execSpobs (d r : Fin 24) (s : State) : Host.Outcome State Fault Refusal :=
  finish s (s.kick (.spobs d r) (readThen s d r 1) toGen)

/-- SPOBS.set (R275). -/
def execSpobsSet (d r : Fin 24) (s : State) : Host.Outcome State Fault Refusal :=
  finish s (s.kick (.spobsSet d r) (readThen s d r 1) toGen)

/-- SPSHAPE (R277). -/
def execSpshape (d r : Fin 24) (s : State) : Host.Outcome State Fault Refusal :=
  finish s (s.kick (.spshape d r) (readGroup s r 1) toGen)

/-- SPSHAPE.set (R276). -/
def execSpshapeSet (d r : Fin 24) (s : State) : Host.Outcome State Fault Refusal :=
  finish s (s.kick (.spshapeSet d r) (readGroup s r 1) toGen)

/-- TOPK (R278). -/
def execTopk (d r : Fin 24) (s : State) : Host.Outcome State Fault Refusal :=
  finish s (s.kick (.topk d r) (readGroup s r 4) toGen)

/-- UNMSET (R280). -/
def execUnmset (d r : Fin 24) (s : State) : Host.Outcome State Fault Refusal :=
  finish s (s.kick (.unmset d r) (readThen s d r 1) toUnm)

/-- UNMRANK (R281). -/
def execUnmrank (d r : Fin 24) (s : State) : Host.Outcome State Fault Refusal :=
  finish s (s.kick (.unmrank d r) (readThen s d r 2) toUnm)

/-- UNMDIRTY (R282). -/
def execUnmdirty (d r : Fin 24) (s : State) : Host.Outcome State Fault Refusal :=
  finish s (s.kick (.unmdirty d r) (readThen s d r 3) toUnm)

/-- UNMCLR (R283). -/
def execUnmclr (d r : Fin 24) (s : State) : Host.Outcome State Fault Refusal :=
  finish s (s.kick (.unmclr d r) (readThen s d r 2) toUnm)

/-- GWTAKE: only on a gateway core (R223). -/
def execGwtake (d r : Fin 24) (s : State) : Host.Outcome State Fault Refusal :=
  finish s (
    if ¬ isGateway s.cur.core then .error (.trap 0x01 (s.baseIllegal 7))
    else s.kick (.gwtake d r) (readGroup s r 1) toGw)

/-! ## The generation table unit (R275 to R278) -/

/-- An acceptance entry of the issuer's partition, else the operation is refused; ACCASN 0 assigns an entry to none (R275, R289). -/
def genEntry (r : Req) (e : Dword) : Eng Unit := do
  let s ← get
  Eng.need (decide (e.toNat < 256) && r.tag != 0 && decide ((mget 0 e.toNat (s.clu r.port).accasn).val = r.tag)) e

def State.average (s : State) (k e : Nat) : Nat := (mget 0 e (s.clu k).accavg).toNat
def State.setAverage (s : State) (k e x : Nat) : State :=
  s.modClu k (fun c => { c with accavg := mset 0 e (BitVec.ofNat 16 x) c.accavg })

/-- The average after an observation (R275). -/
def observeAvg (a x : Nat) : Nat := ((a : Int) + ((x * 256 : Nat) - (a : Int)) / 8).toNat

/-- The depths of the nodes of a tree, from node m on, given those before (R276). -/
def shapeDepths (parents : Nat) : Nat → Nat → List Nat → List Nat
  | 0, _, ds => ds
  | n + 1, m, ds => shapeDepths parents n (m + 1) (ds ++ [ds.getD (bits parents (4 * m + 3) (4 * m)) 0 + 1])

/-- The entry of a 32-byte image is accepted (R276). -/
def shapeOk (x : Nat) : Bool :=
  let n := bits x 135 128
  let par := bits x 63 0
  let dep := bits x 127 64
  let p (m : Nat) : Nat := bits par (4 * m + 3) (4 * m)
  let ds := shapeDepths par (n - 1) 1 [0]
  decide (bits x 255 136 = 0 ∧ 1 ≤ n ∧ n ≤ 16 ∧ p 0 = 0) &&
    (List.range 16).all (fun m => decide (m = 0) || decide (n ≤ m) || decide (p m < m)) &&
    (List.range 16).all (fun m => decide (m < n) || (p m == 0 && bits dep (4 * m + 3) (4 * m) == 0)) &&
    (List.range 16).all (fun m => decide (n ≤ m + 1) || decide (ds.getD m 0 ≤ ds.getD (m + 1) 0)) &&
    (List.range 16).all (fun l => bits dep (4 * l + 3) (4 * l) == ds.countP (· == l)) && bits dep 3 0 == 1

/-- Insert a score with its index after those that are not below it, and keep k (R278). -/
def topInsert (k : Nat) (v : Fp) (x i : Nat) (l : List (Fp × Nat × Nat)) : List (Fp × Nat × Nat) :=
  ((l.takeWhile (fun e => !fpLt e.1 v)) ++ [(v, x, i)] ++ l.dropWhile (fun e => !fpLt e.1 v)).take k

/-- The best k of the scores (R278). -/
def topOf (k : Nat) (scores : List Nat) : List (Fp × Nat × Nat) :=
  ((List.range scores.length).zip scores).foldl (fun l e =>
    let v := decodeF .f32 e.2
    if v.isNan then l else topInsert k v e.2 e.1 l) []

/-- Values of w bytes from a list of bytes, n of them. -/
def chunks (w : Nat) : Nat → List Byte → List Nat
  | 0, _ => []
  | n + 1, bs => leNat (bs.take w) :: chunks w n (bs.drop w)

/-- A list in a core store: space 0x1 or 0x2, aligned, with a right (R278, R281, R282). -/
def listOk (a : Dword) (n right align : Nat) : Bool :=
  engineAddrOk a n right && decide (raSpace a ≤ 2) && decide (a.toNat % align = 0)

/-- TOPK (R278). -/
def genTopk (r : Req) (d : Fin 24) (a n k l : Dword) : Eng (List (Fin 24 × Dword)) := do
  Eng.need (decide (1 ≤ n.toNat ∧ n.toNat ≤ 131072)) n
  Eng.need (decide (1 ≤ k.toNat ∧ k.toNat ≤ 64)) k
  Eng.need (listOk a (4 * n.toNat) 8 4) a
  Eng.need (listOk l 0 4 8) l
  let bs ← Eng.rdBuf r a (4 * n.toNat)
  let top := topOf k.toNat (chunks 4 n.toNat bs)
  Eng.need (listOk l (8 * top.length) 4 8) l
  Eng.wrBuf r l (top.flatMap (fun e => natLE (e.2.1 + e.2.2 * 2 ^ 32) 8))
  pure [(d, BitVec.ofNat 64 top.length)]

/-- An operation of the generation table unit: its register results. -/
def genBody (r : Req) (o : EngOp) : Eng (List (Fin 24 × Dword)) := do
  let g (i : Nat) : Dword := o.args.getD i 0
  Eng.need (decide (cluIdx r.port < 32)) (g 0)
  match o.ins with
  | .spobs d _ => do
    genEntry r (g 0)
    Eng.need (decide ((g 1).toNat ≤ 255)) (g 1)
    let s ← get
    let a := observeAvg (s.average r.port (g 0).toNat) (g 1).toNat
    set (s.setAverage r.port (g 0).toNat a)
    pure [(d, BitVec.ofNat 64 a)]
  | .spobsSet d _ => do
    genEntry r (g 0)
    Eng.need (decide ((g 1).toNat < 65536)) (g 1)
    modify (fun s => s.setAverage r.port (g 0).toNat (g 1).toNat)
    pure [(d, g 1)]
  | .spshape d _ => do
    genEntry r (g 0)
    let s ← get
    let e := min 15 (s.average r.port (g 0).toNat / 64)
    let sh := mget {} (16 * r.tag + e) (s.clu r.port).shapes
    Eng.need (sh.count != 0) (g 0)
    pure [(d, sh.parents), (gAt d 1, sh.depths), (gAt d 2, BitVec.ofNat 64 (sh.count + e * 256))]
  | .spshapeSet d _ => do
    Eng.need (engineAddrOk (g 0) 512 8 && decide ((g 0).toNat % 64 = 0)) (g 0)
    let bs ← Eng.rdBuf r (g 0) 512
    let es := chunks 32 16 bs
    Eng.need (es.all shapeOk) (g 0)
    modify (fun s => s.modClu r.port (fun c => { c with
      shapes := ((List.range 16).zip es).foldl (fun m e =>
        mset {} (16 * r.tag + e.1) { count := bits e.2 135 128, depths := BitVec.ofNat 64 (bits e.2 127 64)
                                     parents := BitVec.ofNat 64 (bits e.2 63 0) } m) c.shapes }))
    pure [(d, 0)]
  | .topk d _ => genTopk r d (g 0) (g 1) (g 2) (g 3)
  | _ => pure []

/-! ## The unmasking engine (R279 to R283) -/

/-- The fields of a canvas record (R279). -/
structure CanvasRec where
  conf   : Dword
  masked : Dword
  dirty  : Dword
  infl   : Dword
  n      : Nat
  layers : Nat
  l1     : Nat
  share  : Nat
  thi    : Nat
  deriving DecidableEq, Repr

def canvasOf (bs : List Byte) : CanvasRec :=
  let x := leNat bs
  let w (i : Nat) : Dword := BitVec.ofNat 64 (bits x (64 * i + 63) (64 * i))
  { conf := w 0, masked := w 1, dirty := w 2, infl := w 3, n := bits x 271 256 + 1, layers := bits x 278 272 + 1, l1 := bits x 286 280
    share := bits x 296 288, thi := bits x 319 304 }

/-- Sheaves of a canvas. -/
def CanvasRec.sheaves (c : CanvasRec) : Nat := (c.n + 63) / 64

/-- An array of a canvas: spaces 0x3 to 0x5, aligned, with its rights and its extent (R279, R36). -/
def canvasArray (a : Dword) (n rights align : Nat) : Bool :=
  decide (3 ≤ raSpace a ∧ raSpace a ≤ 5) && raListed a && decide (raRights a &&& rights = rights) &&
    decide (raOffset a + n ≤ spaceExtent (raSpace a)) && decide (a.toNat % align = 0)

/-- The canvas of a slot of the issuer's partition, else the operation is refused (R280). -/
def unmSlot (r : Req) (i : Dword) : Eng (CanvasRec × Canvas) := do
  let s ← get
  match (if i.toNat < 16 then mfind i.toNat (s.clu r.port).canvas else none) with
  | some c => do
    Eng.need (c.part == r.tag) i
    pure (canvasOf c.record, c)
  | none => Eng.refuse i

def Eng.setCanvas (r : Req) (i : Dword) (c : Canvas) : Eng Unit :=
  modify (fun s => s.modClu r.port (fun x => { x with canvas := mput i.toNat c x.canvas }))

/-- UNMSET (R280). -/
def unmSet (r : Req) (d : Fin 24) (i rec : Dword) : Eng (List (Fin 24 × Dword)) := do
  let s ← get
  Eng.need (decide (i.toNat < 16)) i
  Eng.need (match mfind i.toNat (s.clu r.port).canvas with | some c => c.part == r.tag | none => true) i
  if rec = 0 then modify (fun s => s.modClu r.port (fun x => { x with canvas := mdel i.toNat x.canvas }))
  else
    Eng.need (engineAddrOk rec 64 8 && decide (rec.toNat % 64 = 0)) rec
    let bs ← Eng.rdBuf r rec 64
    let x := leNat bs
    let c := canvasOf bs
    Eng.need (decide (bits x 511 320 = 0 ∧ bits x 303 297 = 0 ∧ bits x 287 287 = 0 ∧ bits x 279 279 = 0 ∧ 1 ≤ c.share ∧ c.share ≤ 256 ∧
      c.l1 < c.layers)) rec
    Eng.need (canvasArray c.conf (2 * c.n) 8 2) c.conf
    Eng.need (canvasArray c.masked (8 * c.sheaves) 12 8) c.masked
    Eng.need (canvasArray c.dirty (16 * c.sheaves) 12 16) c.dirty
    Eng.need (canvasArray c.infl (8 * c.sheaves) 8 8) c.infl
    Eng.setCanvas r i { part := r.tag, record := bs }
  pure [(d, 0)]

/-- The masked positions of a canvas, ascending (R279, R281). -/
def unmPositions (r : Req) (c : CanvasRec) : Eng (List Nat) := do
  let ws ← Eng.many (tab c.sheaves (fun sh => { r := r, a := raAdd c.masked (8 * sh), n := 8, op := .rd }))
  pure (((List.range c.sheaves).zip ws).flatMap (fun e =>
    (List.range 64).filterMap (fun i => if bitAt e.2 i ∧ 64 * e.1 + i < c.n then some (64 * e.1 + i) else none)))

/-- Insert a position in the order of R281: confidence descending, lower position first among equals. -/
def rankInsert (v : Fp) (p : Nat) (l : List (Fp × Nat)) : List (Fp × Nat) :=
  (l.takeWhile (fun e => !fpLt e.1 v)) ++ [(v, p)] ++ l.dropWhile (fun e => !fpLt e.1 v)

/-- The request of an access that reads and writes an array of the canvas: its page gives R and W (R279). -/
def canvasReq (r : Req) : Req := { r with rights := some 12 }

/-- The access that sets bits of a dirty word. -/
def unmMark (r : Req) (c : CanvasRec) (sh mask : Nat) : EngAcc :=
  { r := canvasReq r, a := raAdd c.dirty (16 * sh), n := 16, op := .amo .or mask }

/-- UNMRANK (R281). Its program names a class for some of its accesses, and waits at its end for all: they are all taken as RLX (entry 68). -/
def unmRank (r : Req) (d : Fin 24) (i l cap : Dword) : Eng (List (Fin 24 × Dword)) := do
  let (c, cv) ← unmSlot r i
  Eng.need (listOk l 0 4 2) l
  let ps ← unmPositions r c
  let xs ← Eng.many (ps.map (fun p => { r := r, a := raAdd c.conf (2 * p), n := 2, op := .rd }))
  let cs := (ps.zip xs).map (fun e => (e.1, decodeF .f16 e.2))
  let rem := ps.length
  let m := max 1 (c.share * rem / 256)
  let th := decodeF .f16 c.thi
  let h := if c.thi = 0x7C00 then 0 else cs.countP (fun e => !e.2.isNan && (fpLt th e.2 || fpEq th e.2))
  let n := min cap.toNat (min rem (max m h))
  let order := cs.foldl (fun acc e => rankInsert (if e.2.isNan then .inf true else e.2) e.1 acc) []
  let chosen := (order.take n).map (·.2)
  let members := ps.filter (chosen.contains ·)
  Eng.need (listOk l (2 * n) 4 2) l
  let sheaf (sh : Nat) : Bool := members.any (fun p => p / 64 == sh)
  let keep (sh : Nat) : Nat := members.foldl (fun w p => if p / 64 = sh then w - 2 ^ (p % 64) else w) (2 ^ 64 - 1)
  if n ≠ 0 then
    let stores := Eng.writes r l (members.flatMap (fun p => natLE p 2)) ++ (List.range c.sheaves).flatMap (fun sh => if sheaf sh then
        [{ r := canvasReq r, a := raAdd c.masked (8 * sh), n := 8, op := .amo .and (keep sh) }, unmMark r c sh (2 ^ c.layers - 1)]
      else [])
    let xs ← Eng.many (stores ++ tab c.sheaves (fun t => { r := r, a := raAdd c.infl (8 * t), n := 8, op := .rd }))
    let ws := xs.drop stores.length
    let hit (w : Nat) : Bool := (List.range 4).any (fun q =>
      let x := bits w (16 * q + 15) (16 * q); x != 0xFFFF && decide (x < c.sheaves) && sheaf x)
    let _ ← Eng.many (((List.range c.sheaves).zip ws).filterMap (fun e => if hit e.2 then some (unmMark r c e.1 (2 ^ c.layers - 2 ^ c.l1)) else none))
    Eng.setCanvas r i { cv with commits := cv.commits + 1 }
  pure [(d, BitVec.ofNat 64 n), (gAt d 1, BitVec.ofNat 64 (rem - n))]

/-- A pair of sheaf and layer of a canvas (R282). -/
def pairOk (c : CanvasRec) (x : Nat) : Bool :=
  decide (x / 2 ^ 32 = 0 ∧ bits x 15 7 = 0 ∧ bits x 31 16 < c.sheaves ∧ bits x 6 0 < c.layers)

/-- The dirty pairs from pair number q up, n pairs in all, at most cap entries in acc; and the first pair not examined (R282). -/
def unmWalk (r : Req) (c : CanvasRec) (cap : Nat) : Nat → Nat → List Nat → Eng (List Nat × Option Nat)
  | 0, _, acc => pure (acc, none)
  | n + 1, q, acc => do
    let sh := q / c.layers
    let ly := q % c.layers
    if cap ≤ acc.length then pure (acc, some (sh * 65536 + ly))
    else
      let w ← Eng.rdN r (raAdd c.dirty (16 * sh)) 16
      unmWalk r c cap n (q + 1) (if bitAt w ly then acc ++ [sh * 65536 + ly] else acc)

/-- UNMDIRTY (R282). -/
def unmDirty (r : Req) (d : Fin 24) (i l cap start : Dword) : Eng (List (Fin 24 × Dword)) := do
  let (c, cv) ← unmSlot r i
  Eng.need (listOk l 0 4 4) l
  Eng.need (pairOk c start.toNat) start
  let q := bits start.toNat 31 16 * c.layers + bits start.toNat 6 0
  let (ps, next) ← unmWalk r c cap.toNat (c.sheaves * c.layers - q) q []
  Eng.need (listOk l (4 * ps.length) 4 4) l
  Eng.wrBuf r l (ps.flatMap (fun p => natLE p 4))
  Eng.setCanvas r i { cv with snap := some cv.commits }
  pure [(d, BitVec.ofNat 64 ps.length), (gAt d 1, BitVec.ofNat 64 (next.getD 0xFFFFFFFF))]

/-- UNMCLR (R283). -/
def unmClr (r : Req) (d : Fin 24) (i l n : Dword) : Eng (List (Fin 24 × Dword)) := do
  let (c, cv) ← unmSlot r i
  Eng.need (listOk l (4 * n.toNat) 8 4) l
  let bs ← Eng.rdBuf r l (4 * n.toNat)
  let ps := chunks 4 n.toNat bs
  ps.forM (fun p => Eng.need (pairOk c p) (BitVec.ofNat 64 p))
  if cv.snap ≠ some cv.commits then pure [(d, 0), (gAt d 1, 1)]
  else
    let k ← ps.foldlM (fun (k : Nat) p => do
      let a := raAdd c.dirty (16 * bits p 31 16)
      let b := bits p 6 0
      let w ← Eng.rdN r a 16
      if bitAt w b then
        let _ ← Eng.acc r a 16 (.wr (w - 2 ^ b) (fullMask 16))
        pure (k + 1)
      else pure k) 0
    pure [(d, BitVec.ofNat 64 k), (gAt d 1, 0)]

/-- An operation of the unmasking engine: its register results. -/
def unmBody (r : Req) (o : EngOp) : Eng (List (Fin 24 × Dword)) := do
  let g (i : Nat) : Dword := o.args.getD i 0
  Eng.need (decide (cluIdx r.port < 32)) (g 0)
  match o.ins with
  | .unmset d _ => unmSet r d (g 0) (g 1)
  | .unmrank d _ => unmRank r d (g 0) (g 1) (g 2)
  | .unmdirty d _ => unmDirty r d (g 0) (g 1) (g 2) (g 3)
  | .unmclr d _ => unmClr r d (g 0) (g 1) (g 2)
  | _ => pure []

/-! ## Taking and posting (R48) -/

/-- Run the head operation of a unit's queue, or its next access: q reads the queue of the cluster, put replaces it (R48, R106, R348). -/
def State.unitRun (s : State) (k : Nat) (q : Cluster → List EngOp) (put : Cluster → List EngOp → Cluster)
    (body : Req → EngOp → Eng (List (Fin 24 × Dword))) : Option State :=
  match q (s.clu k) with
  | [] => none
  | o :: os =>
    if o.paused.isSome then none
    else
      let r : Req := { core := o.iss.core, port := k, tag := o.iss.tag, thr := false, kind := 2, unit := cluIdx k, uid := o.iss.uid, id := 3 }
      some (o.run s (fun s o => s.modClu k (fun x => put x (o.toList ++ os))) (body r o)
        (fun s res => s.addPost o.iss { res := res, err := none }) (fun s v => s.addPost o.iss { res := [], err := some v }))

/-- The key of a flow of a partition (R370). -/
def flowKey (p f : Nat) : Nat := 16 * p + f

/-- The reply of a GWTAKE of flow f of a partition and the port after it; none where it waits (R223). -/
def Port.takeBlock (x : Port) (p : Nat) (f : Dword) : Option (Dword × Port) :=
  if 16 ≤ f.toNat then some (BitVec.allOnes 64, x)
  else
    let fl := mget {} (flowKey p f.toNat) x.flows
    match fl.ready with
    | b :: bs => some (BitVec.ofNat 64 b, { x with flows := mset {} (flowKey p f.toNat) { fl with ready := bs } x.flows })
    | [] => if bitAt fl.reg.toNat 63 then none else some (BitVec.ofNat 64 (2 ^ 63), x)

/-- The thread of a life is being stopped, or is gone: it takes no entry and no post (R223, R257). -/
def State.stopping (s : State) (uid : Nat) : Bool :=
  match s.lookUid uid with | some t => t.ctl == .stopReq | none => true

/-- A waiting GWTAKE ends: the reply is in the slot's mailbox and in g[d], the acquire is made, the thread goes on (R48, R223). -/
def State.gwEnd (s : State) (c n : Nat) (o : EngOp) (d : Fin 24) (v : Dword) : State :=
  ((s.modCore c (fun k => k.post n [v])).modThread c n (fun t => { t with
    g := vset t.g d v, pc := o.next, wait := .ready, poisoned := none, trail := [] })).invalidateAt c .pkg

/-- The link block queue of a port serves waiter i, no earlier one of its flow being there: its thread, which is not being stopped and
whose relaxed loads have returned, receives the reply as the entry leaves the queue (R48, R223). -/
def State.gwServe (s : State) (n i : Nat) : Option State :=
  let x := s.port n
  match x.gwq[i]? with
  | none => none
  | some o =>
    let f := o.args.getD 0 0
    let served (q : EngOp) : Bool := q.iss.tag == o.iss.tag && q.args.getD 0 0 == f && !s.stopping q.iss.uid
    if (x.gwq.take i).any served ∨ s.stopping o.iss.uid ∨ s.returned o.iss.uid = false then none
    else
      match s.findUid o.iss.uid, x.takeBlock o.iss.tag f, o.ins with
      | some (c, m), some (v, y), .gwtake d _ => some ((s.setPort n { y with gwq := ldel x.gwq i }).gwEnd c m o d v)
      | _, _, _ => none

/-- ENGINE_TAKE_OPERATION: the generation table unit or unmasking engine of cluster k runs the operation at its head; the link block
queue of port k serves waiter i (R48). -/
def execEngineTakeOperation (u : EngUnit) (k i : Nat) (s : State) : Host.Outcome State Fault Refusal :=
  event s (match u with
    | .gen => s.unitRun k (fun x => x.genq) (fun x l => { x with genq := l }) genBody
    | .unm => s.unitRun k (fun x => x.unmq) (fun x l => { x with unmq := l }) unmBody
    | .gw => s.gwServe k i)

/-- Post i reaches the issuing slot's mailbox; where the thread is being stopped, the handles it would have returned are released
(R48, R257). -/
def State.postStep (s : State) (i : Nat) : Option State :=
  match s.posts[i]? with
  | none => none
  | some p =>
    if p.paused.isSome then none
    else if s.stopping p.iss.uid then some (s.ropeUndo i p)
    else some ({ s with posts := ldel s.posts i }.deliver p.iss.uid p.post)

/-- ENGINE_MAILBOX_POST (R48). -/
def execEngineMailboxPost (i : Nat) (s : State) : Host.Outcome State Fault Refusal := event s (s.postStep i)

end Sys2Proof.Machine
end

