-- ==== Sys2Proof/Machine/Granary.lean ====
section
/-! DEFINITION. Saved contexts: the image, the descriptor, the places of a granary, writing back and sealing (R320 to R324, R77). -/

namespace Sys2Proof.Machine

/-! ## Registers as words (R37, R167, R320) -/

/-- The two words of a segment register. -/
def Seg.words (g : Seg) : List Dword :=
  [g.base.setWidth 64, BitVec.ofNat 64 (g.space.toNat * 2 ^ 60 + g.rights.toNat * 2 ^ 56 + g.limit.toNat)]

/-- A segment register from its low and high words. -/
def segOfWords (lo hi : Dword) : Seg :=
  { space := BitVec.ofNat 4 (bits hi.toNat 63 60), rights := BitVec.ofNat 4 (bits hi.toNat 59 56)
    limit := BitVec.ofNat 40 (bits hi.toNat 39 0), base := BitVec.ofNat 56 (bits lo.toNat 55 0) }

/-- XSTAT as GETX reads it; pm follows the core (R167, R286). -/
def XStat.word (x : XStat) (pm : Bool) : Dword :=
  BitVec.ofNat 64 (x.resume.toNat * 2 ^ 32 + x.glen.toNat * 16 + b2n x.df * 8 + b2n x.h * 4 + b2n x.tr * 2 + b2n pm)

def xstatOfWord (w : Dword) : XStat :=
  { resume := BitVec.ofNat 19 (bits w.toNat 50 32), glen := BitVec.ofNat 3 (bits w.toNat 6 4), df := bitAt w.toNat 3
    h := bitAt w.toNat 2, tr := bitAt w.toNat 1 }

/-- The image of a context (R320): its 128 words. -/
def imageWords (t : Thread) : List Dword :=
  let gid := (t.node.getD 0) / 4096
  let idx := (t.node.getD 0) % 4096
  let d := t.deferred.head?
  t.g.toList ++ t.v.toList.flatMap (fun v => tab 8 (fun i => BitVec.ofNat 64 (v.toNat / 2 ^ (64 * i)))) ++ t.k.toList ++
    t.sg.toList.flatMap Seg.words ++ t.p.toList ++
    [BitVec.ofNat 64 (t.pc.toNat % 0x80000), BitVec.ofNat 64 (t.fflg.toNat + (fctlWord t.fctl).toNat % 65536 * 65536),
     t.xcause.setWidth 64, t.xval, t.xpc, t.xstat.word false,
     BitVec.ofNat 64 (t.tid % 2 ^ 40 + t.attempt % 16 * 2 ^ 40 + b2n t.wake * 2 ^ 44 + b2n t.chk.isSome * 2 ^ 45),
     BitVec.ofNat 64 (t.origin % 2 ^ 40 + (t.chk.getD 0) % 65536 * 2 ^ 40),
     BitVec.ofNat 64 (gid % 2 ^ 32 + idx % 65536 * 2 ^ 32), BitVec.ofNat 64 (t.handler.toNat % 0x80000),
     (match d with | some d => d.xpc | none => 0), (match d with | some _ => 1 | none => 0)]

def imageBytes (t : Thread) : List Byte := (imageWords t).flatMap (fun w => natLE w.toNat 8)

/-- The registers an image holds, into the context whose image it is. -/
def restoreImage (t : Thread) (bs : List Byte) : Thread :=
  let w (i : Nat) : Dword := BitVec.ofNat 64 (leNat ((bs.drop (8 * i)).take 8))
  let id := (w 122).toNat
  let f := (w 117).toNat
  { t with
    g := Vector.ofFn (fun i => w i.val)
    v := Vector.ofFn (fun i => BitVec.ofNat 512 (leNat ((bs.drop (192 + 64 * i.val)).take 64)))
    k := Vector.ofFn (fun i => w (88 + i.val))
    sg := Vector.ofFn (fun i => segOfWords (w (96 + 2 * i.val)) (w (97 + 2 * i.val)))
    p := Vector.ofFn (fun i => w (112 + i.val))
    pc := BitVec.ofNat 64 ((w 116).toNat % 0x80000)
    fflg := BitVec.ofNat 7 f
    fctl := (fctlOf (BitVec.ofNat 64 (bits f 31 16))).getD {}
    xcause := BitVec.ofNat 8 (w 118).toNat, xval := w 119, xpc := w 120, xstat := xstatOfWord (w 121)
    tid := id % 2 ^ 40, attempt := bits id 43 40, wake := bitAt id 44
    chk := if bitAt id 45 then some (bits (w 123).toNat 55 40) else none
    origin := (w 123).toNat % 2 ^ 40
    handler := BitVec.ofNat 64 ((w 125).toNat % 0x80000) }

/-! ## Places (R321) -/

/-- A place of a granary: the partition and the number. -/
def placeKey (p n : Nat) : Nat := p * 2 ^ 32 + n

/-- Places of partition p on cluster k. -/
def State.granSize (s : State) (k p : Nat) : Nat := 64 * bits (mget 0 p (s.clu k).gran).toNat 15 0

/-- The lowest place that is neither held nor reserved. -/
def State.freePlace (s : State) (k p : Nat) : Option Nat :=
  let x := s.clu k
  let used := (x.places.filter (fun e => decide (e.1 / 2 ^ 32 = p))).map (fun e => e.1 % 2 ^ 32) ++
    (x.reserved.filter (fun e => decide (e.1 = p))).map (fun e => e.2.1)
  findUp (min (s.granSize k p) (used.length + 1)) (fun n => !used.contains n)

/-- A resolved address of global memory with every right. -/
def globRa (va : Nat) : Dword := BitVec.ofNat 64 (0x5F * 2 ^ 56 + va % 2 ^ 52)

/-- The granary's accesses: tag 0's global space through the cluster's memory port. -/
def granReq (k : Nat) : Req :=
  { core := ckey (cluPkg k) 2048, port := k, tag := 0, thr := false, kind := 2, unit := cluIdx k, uid := 0
    id := 8 * k + 1 }

def State.granBase (s : State) (k p : Nat) : Nat := bits (mget 0 p (s.clu k).gran).toNat 63 16 * 65536
def State.imageVa (s : State) (k p n : Nat) : Nat := s.granBase k p + 1024 * n
def State.descVa (s : State) (k p n : Nat) : Nat := s.granBase k p + s.granSize k p * 1024 + 64 * n

/-- Context id (R321). -/
def contextId (p k n : Nat) : Dword := BitVec.ofNat 64 (p * 2 ^ 48 + cluIdx k * 2 ^ 40 + n)

/-! ## Descriptors and tags (R322, R324) -/

/-- The descriptor of a saved context, without its tag: bits [255:0]. -/
def descLow (x : Saved) (lost resident : Bool) : Nat :=
  let t := x.ctx
  (t.node.getD 0) / 4096 % 2 ^ 32 * 2 ^ 224 + (t.node.getD 0) % 4096 * 2 ^ 208 + idxOf x.core % 2048 * 2 ^ 197 + x.slot % 32 * 2 ^ 192 +
    t.tid % 2 ^ 40 * 2 ^ 152 + x.set.toNat * 2 ^ 64 + x.part % 16 * 2 ^ 8 + b2n x.written * 16 + b2n lost * 8 + x.kind % 4 * 2 +
    b2n resident

/-- The tag of an image: KMAC256 over the image and descriptor bits [255:64] and [11:8] (R324). -/
def State.imageTag (s : State) (p : Nat) (img : List Byte) (desc : Nat) : List Byte :=
  kmac256 (Config.contextKey s.resets p) (img ++ natLE (bits desc 255 64) 24 ++ [BitVec.ofNat 8 (bits desc 11 8)]) customCtx 32

/-- The 64 bytes of a descriptor; the tag is zero until the image is sealed. -/
def State.descBytes (s : State) (x : Saved) : List Byte :=
  let d := descLow x false true
  natLE d 32 ++ (if x.sealed then s.imageTag x.part (imageBytes x.ctx) d else List.replicate 32 0)

/-- No descriptor of a place is still on its way: an access to it comes after (R321). -/
def Eng.descQuiet (k p n : Nat) : Eng Unit := fun s =>
  if (s.clu k).descs.any (fun d => d.part == p && d.place == n) then .error (.again s .drain) else .ok ((), s)

/-- Write the descriptor of a place. -/
def Eng.putDesc (k n : Nat) (x : Saved) : Eng Unit := do
  Eng.descQuiet k x.part n
  let s ← get
  Eng.wrBuf (granReq k) (globRa (s.descVa k x.part n)) (s.descBytes x)

/-- Write the image and the descriptor of a place, which then is at its place. -/
def Eng.putImage (k n : Nat) (x : Saved) : Eng Unit := do
  let s ← get
  Eng.wrBuf (granReq k) (globRa (s.imageVa k x.part n)) (imageBytes x.ctx)
  Eng.putDesc k n { x with written := true }

/-- Bytes [63:0] of a descriptor: resident, kind, lost, where (R322). -/
def Eng.getDesc (k p n : Nat) : Eng Nat := do
  Eng.descQuiet k p n
  let s ← get
  let b ← Eng.rdBuf (granReq k) (globRa (s.descVa k p n)) 64
  pure (leNat b)

/-- A step of a descriptor's write: made, or dropped where it fails; on a page that is not resident, or short of tokens, it waits (R321,
R348, R362). -/
def State.descStep (s : State) (k i : Nat) (split : Bool) : Option State :=
  match (s.clu k).descs[i]? with
  | none => none
  | some d =>
    if d.paused.isSome then none
    else
      let put (s : State) (f : List DescW → List DescW) : State := s.modClu k (fun c => { c with descs := f c.descs })
      let ends (s : State) : State := put s (fun l => ldel l i)
      let stays (s : State) (d : DescW) : State := put s (fun l => lset l i { d with poison := none })
      match Eng.run s d.trail d.poison.toList (Eng.wrBuf (granReq k) (globRa (s.descVa k d.part d.place)) d.bytes) split with
      | .done s _ | .refused s _ => some (ends s)
      | .more s t | .again s t _ => some (stays s { d with trail := t })
      | .paused s t key => some (stays s { d with trail := t, paused := some key })

/-- The granary writes a descriptor, in place of one of the same place that is still to be written (R321). -/
def State.writeDesc (s : State) (k p n : Nat) (bytes : List Byte) : State :=
  let old := (s.clu k).descs.filter (fun d => !(d.part == p && d.place == n))
  let s := s.modClu k (fun c => { c with descs := old ++ [{ part := p, place := n, bytes := bytes }] })
  (s.descStep k old.length false).getD s

/-- Images in the cache (R321). -/
def Cluster.cached (x : Cluster) : Nat := x.places.countP (fun e => !e.2.written)

/-- The image of a key is at its place (R321, R323). -/
def State.wroteBack (s : State) (k key : Nat) (x : Saved) : State :=
  (s.modClu k (fun c => { c with
    places := mput key { x with written := true } c.places, wbReq := c.wbReq.filter (· != key) })).dropWaiter (.granaryWriteback k key)

/-- Write a sealed cached image back to its place, in a flow of the granary (R321, R323, R348). -/
def State.writeBack (s : State) (k key : Nat) : Option State :=
  match mfind key (s.clu k).places with
  | none => none
  | some x =>
    if x.written ∨ ¬ x.sealed then none
    else
      match s.flow (.granaryWriteback k key) (Eng.putImage k (key % 2 ^ 32) x) with
      | .done s () => some (s.wroteBack k key x)
      | .refused s _ | .waits s => some s

/-- The oldest sealed image of a cache. -/
def Cluster.oldestSealed (x : Cluster) : Option (Nat × Saved) :=
  let old := x.places.filter (fun e => !e.2.written && e.2.sealed)
  match old with
  | [] => none
  | e :: es =>
    let age := es.foldl (fun a e => min a e.2.age) e.2.age
    old.find? (fun e => e.2.age == age)

/-- Room for one more image: the oldest sealed image of a full cache goes to its place (R321). -/
def State.makeRoom (s : State) (k : Nat) : State :=
  let x := s.clu k
  if x.cached < 256 then s
  else match x.oldestSealed with
    | some (key, _) => (s.writeBack k key).getD s
    | none => s

/-- A context would take one more place of the cache. -/
def Cluster.takesPlace (c : Cluster) (n : Nat) (x : Saved) : Bool :=
  !x.written && (match mfind (placeKey x.part n) c.places with | some y => y.written | none => true)

/-- A sealed context that finds no room in the cache goes to its own place, in a flow of the granary that goes on where it stood while it
waits for a page or for tokens; whether it is there (R321, R348, R362, entry 88). -/
def State.putPlace (s : State) (k n : Nat) (x : Saved) : State × Bool :=
  match s.flow (.granaryWriteback k (placeKey x.part n)) (Eng.putImage k n x) (split := false) with
  | .done s () => (s, true)
  | .refused s _ | .waits s => (s, false)

/-- Store a context in a place of the cache, with its descriptor. Where the cache has no room for it, none of its images being sealed, a
sealed one goes to its own place (R321). -/
def State.storePlace (s : State) (k n : Nat) (x : Saved) : State :=
  let new := (s.clu k).takesPlace n x
  let s := if new then s.makeRoom k else s
  let put (s : State) (x : Saved) : State := s.modClu k (fun c => { c with places := mput (placeKey x.part n) x c.places })
  if new && x.sealed && decide (256 ≤ (s.clu k).cached) then
    let (s, ok) := s.putPlace k n x
    put s { x with written := ok }
  else
    let s := if new then s.dropWaiter (.granaryWriteback k (placeKey x.part n)) else s
    (put s x).writeDesc k x.part n (s.descBytes x)

/-- A context can be stored: the cache of 256 places has room for it, or it can go to its own place (R321). -/
def State.mayStore (s : State) (k n : Nat) (x : Saved) : Bool := decide (((s.storePlace k n x).clu k).cached ≤ 256)

/-- What a context that cannot be stored asks for: room in the cache, or the way to its own place. -/
def State.askRoom (s : State) (k n : Nat) (x : Saved) : State :=
  let s := s.makeRoom k
  if x.sealed then (s.putPlace k n x).1 else s

/-- Room in a cache for m more images: sealed images go to their places, or the operation waits until one is sealed (R321). -/
def Eng.roomFor (k m : Nat) : Nat → Eng Unit
  | 0 => fun s => .error (.again s .drain)
  | fuel + 1 => do
    let s ← get
    if (s.clu k).cached + m ≤ 256 then pure ()
    else match (s.clu k).oldestSealed with
      | none => fun s => .error (.again s .drain)
      | some (key, x) => do
        Eng.putImage k (key % 2 ^ 32) x
        modify (fun s => s.wroteBack k key x)
        Eng.roomFor k m fuel

/-- The descriptor of a place that is free (R322). -/
def freeDesc (x : Saved) : List Byte := natLE (descLow { x with kind := 0 } false false) 32 ++ List.replicate 32 0

/-- Free a place: its descriptor becomes kind 0 (R322). -/
def State.freePlaceAt (s : State) (k p n : Nat) : State :=
  match mfind (placeKey p n) (s.clu k).places with
  | none => s
  | some x =>
    let s := (s.modClu k (fun c => { c with places := mdel (placeKey p n) c.places })).dropWaiter (.granaryWriteback k (placeKey p n))
    s.writeDesc k p n (freeDesc x)

/-- GRANARY_WRITEBACK: the image of entry i of cluster k's places, when the cache needs room or the service asked; the numbers after the
places name the descriptors that are still to be written (R321, R323). -/
def execGranaryWriteback (k i : Nat) (s : State) : Host.Outcome State Fault Refusal :=
  event s (match (s.clu k).places[i]? with
    | none => s.descStep k (i - (s.clu k).places.length) s.cur.split
    | some (key, _) =>
      if 256 ≤ (s.clu k).cached ∨ (s.clu k).wbReq.contains key ∨ s.begun (.granaryWriteback k key) then s.writeBack k key else none)

/-- GRANWB: the image of a place is written back once it is sealed (R323). -/
def State.granWb (s : State) (k : Nat) (x : Dword) : State :=
  let key := placeKey (bits x.toNat 35 32) (bits x.toNat 31 0)
  match mfind key (s.clu k).places with
  | none => s
  | some p =>
    if p.written then s
    else
      let s := s.modClu k (fun c => { c with wbReq := if c.wbReq.contains key then c.wbReq else c.wbReq ++ [key] })
      (s.writeBack k key).getD s

/-- GRANWB_WRITE (R323). -/
def execGranwbWrite (k : Nat) (x : Dword) (s : State) : Host.Outcome State Fault Refusal := .next (s.granWb k x)

/-- IMAGE_SEAL: the image of entry i is sealed once every engine operation of its thread has finished (R323, R324). -/
def execImageSeal (k i : Nat) (s : State) : Host.Outcome State Fault Refusal :=
  event s (match (s.clu k).places[i]? with
    | none => none
    | some (key, x) =>
      if x.sealed ∨ s.engineBusy x.ctx.uid then none
      else some (s.storePlace k (key % 2 ^ 32) { x with sealed := true }))

end Sys2Proof.Machine
end

