-- ==== Sys2Proof/Machine/Nodes.lean ====
section
/-! DEFINITION. Nodes of graphs: finding them, writing their records, their threads and claims, freeing a slot, stopping the threads
of an attempt (R53, R62, R83, R299 to R304, R307, R317). -/

namespace Sys2Proof.Machine

/-! ## Finding nodes (R301) -/

/-- The graph with an id, and its key. -/
def State.graphOf (s : State) (gid : Nat) : Option (Nat × Graph) := s.graphs.find? (fun e => e.2.gid == some gid)

/-- The node of a node id: its graph's key, its index, the node. -/
def State.nodeOf (s : State) (nid : Nat) : Option (Nat × Nat × Node) :=
  match s.graphOf (nid / 4096) with
  | none => none
  | some (gk, g) => (g.nodes[nid % 4096]?).map (fun n => (gk, nid % 4096, n))

/-- Replace node i of a graph. -/
def State.setNode (s : State) (gk i : Nat) (n : Node) : State := s.modGraph gk (fun g => { g with nodes := lset g.nodes i n })

/-- The launch record of a thread's node. -/
def State.launchOf (s : State) (nid : Option Nat) : Option Launch :=
  match nid with
  | none => none
  | some nid => match s.nodeOf nid with
    | some (_, _, n) => n.launch
    | none => none

/-- The node id of node i of a graph (R301). -/
def Graph.nid (g : Graph) (i : Nat) : Nat := (g.gid.getD 0) * 4096 + i

/-! ## The scheduler's stores (R300) -/

/-- The graph scheduler and the dispatchers make their accesses as no thread, under the partition's tag. -/
def State.schedReq (s : State) (p : Nat) (id : Nat := 7) : Req :=
  { core := ckey s.boot.pkg 2048, port := s.boot.pkg * 64 + 32, tag := p, thr := false, kind := 2, unit := 0, uid := 0, id := id }

/-- The scheduler's request for a graph. -/
def State.graphReq (s : State) (gk p : Nat) : Req := s.schedReq p (8 * gk + 2)

/-- A store of the scheduler: one that the page table refuses, for a right or an invalid or poisoned page, or that meets an error is
dropped; one on a page that is not resident waits (R300). -/
def Eng.put (r : Req) (a : Dword) (n v : Nat) : Eng Unit := do
  let _ ← Eng.soft (Eng.wrN { r with hard := true } a n v)
  pure ()

/-- State codes (R303). -/
def NState.code : NState → Nat
  | .waiting => 0 | .ready => 1 | .running => 2 | .done => 3 | .faulted => 4 | .retrying => 5 | .cancelling => 6 | .cancelled => 7

def NState.final : NState → Bool
  | .done | .faulted | .cancelled => true
  | _ => false

def NKind.code : NKind → Nat | .kernel => 0 | .copy => 1 | .signal => 2 | .sub => 3

/-- Bytes 0 to 7 of a node record (R299). -/
def Node.word (n : Node) : Nat :=
  n.need % 65536 * 2 ^ 48 + n.tokens % 65536 * 2 ^ 32 + n.attempt % 16 * 2 ^ 28 + n.budget % 16 * 2 ^ 24 + n.state.code * 2 ^ 16 +
    n.succ.length % 32 * 256 + n.kind.code

/-- A change of node i of a graph, written to its record as one 8-byte store (R300). -/
def Eng.setNode (gk i : Nat) (n : Node) : Eng Unit := fun s =>
  match mfind gk s.graphs with
  | none => .ok ((), s)
  | some g => (Eng.put (s.graphReq gk g.part) (raAdd g.nodesA (128 * i)) 8 n.word) (s.setNode gk i n)

/-- Write gstate (R298, R309). -/
def Eng.setGstate (gk v : Nat) : Eng Unit := fun s =>
  match mfind gk s.graphs with
  | none => .ok ((), s)
  | some g => (Eng.put (s.graphReq gk g.part) (raAdd g.record 8) 1 v) (s.modGraph gk (fun g => { g with gstate := v }))

/-- A walk step of the parent graph that has begun cancels this graph (R309, R311). -/
def State.cancelsNow (s : State) (gk : Nat) : Bool :=
  match (mfind gk s.graphs).bind (fun g => g.parent) with
  | some (pk, i) => s.begun (.walkStep pk) && ((mfind pk s.graphs).bind (fun g => g.walks.head?)).any (fun w =>
      w.queue.head? == some i && !w.seen.contains i)
  | none => false

/-- Another event of a graph has begun and not ended: the scheduler applies the events of one graph one at a time (R304). The event of a
GSIGNAL or GCANCEL is its thread's. None begins while a walk step of the parent graph cancels the graph, whose own walk is pending from then
on (R310). -/
def State.graphBusy (s : State) (gk : Nat) (who : Instr) : Bool :=
  s.waits.any (fun w => w.graph == some gk && w.who != who && (match w.who with
    | .engineMailboxPost uid => (s.findUid uid).isSome
    | _ => true)) || (s.cancelsNow gk && !s.begun who)

/-- An event of a graph: it happens where its condition holds, or where it has begun, and no other event of the graph has begun (R300,
R304). -/
def State.schedule (s : State) (gk : Nat) (who : Instr) (may : Bool) (e : Eng Unit) : Option State :=
  if s.graphBusy gk who ∨ (may = false ∧ s.begun who = false) then none
  else match s.flow who e (some gk) with
    | .done s _ | .refused s _ | .waits s => some s

/-- Enter a node into READY, after those that became READY before (R304). -/
def Node.ready (n : Node) (s : State) : Node := { n with state := .ready, readyAt := s.nextUid }

/-- One token for node i (R304): READY when the count reaches need. -/
def Eng.token (gk i : Nat) : Eng Bool := fun s =>
  match (mfind gk s.graphs).bind (fun g => g.nodes[i]?) with
  | none => .ok (false, s)
  | some n =>
    if n.state ≠ .waiting then .ok (false, s)
    else
      let n := { n with tokens := n.tokens + 1 }
      let n := if n.tokens = n.need then n.ready s else n
      match (Eng.setNode gk i n) { s with nextUid := s.nextUid + 1 } with
      | .ok ((), s) => .ok (true, s)
      | .error e => .error e

/-! ## Threads and claims of a node -/

/-- A context belongs to an attempt of a node. -/
def Thread.ofNode (t : Thread) (nid att : Nat) : Bool := t.node == some nid && t.attempt == att

/-- A core has a thread of a node: in a slot or in its arrival queue. -/
def Core.hasNode (c : Core) (nid : Nat) : Bool :=
  c.slots.any (fun e => e.2.node == some nid) || c.arrq.any (fun t => t.node == some nid)

/-- Two ranges of core store meet. -/
def overlaps (lo hi lo' hi' : Nat) : Bool := decide (lo < hi') && decide (lo' < hi)

/-- The claim of a launch: [origin, origin + shbytes), the image rounded up where shbytes is 0 (R49, R56). -/
def Launch.lo (l : Launch) : Nat := l.origin
def Launch.hi (l : Launch) : Nat := l.origin + l.claim

/-- What the launch needs on the core is another node's: a claim it meets, of a node that has threads on the core, or a queue or link that
is bound to another node, whether or not that node has threads there (R53, entry 24). -/
def Core.conflict (c : Core) (nid : Nat) (l : Launch) : Bool :=
  c.claims.any (fun k => k.node != nid && c.hasNode k.node && overlaps l.lo l.hi k.lo k.hi) ||
    (List.range 4).any (fun i =>
      ((l.queues.getD i none).isSome && (c.q.toList.getD i {}).bind.any (fun b => b.node != nid)) ||
      ((l.links.getD i none).isSome && (c.lk.toList.getD i {}).bind.any (fun b => b.1 != nid)))

/-- A node takes its claim on a core, with its queues and links; one it holds already stays (R53, R57). -/
def Core.take (c : Core) (nid att : Nat) (l : Launch) : Core :=
  let c := if c.claims.any (fun k => k.node == nid && k.attempt == att) then c
    else { c with claims := c.claims ++ [{ node := nid, attempt := att, lo := l.lo, hi := l.hi, ready := false }] }
  (List.range 4).foldl (fun (c : Core) i =>
    let c := match l.queues.getD i none with
      | some (p, q) => { c with q := vset c.q (Fin.ofNat 4 i) { c.q[(Fin.ofNat 4 i).val] with bind := some { node := nid, prod := p, cons := q } } }
      | none => c
    match l.links.getD i none with
      | some n => { c with lk := vset c.lk (Fin.ofNat 4 i) { c.lk[(Fin.ofNat 4 i).val] with bind := some (nid, n) } }
      | none => c) c

/-- The node's last thread has left the core: its queues' and links' entries are discarded and its claim is released (R62). -/
def Core.release (c : Core) (nid : Nat) : Core :=
  if c.hasNode nid then c
  else { c with
    claims := c.claims.filter (fun k => k.node != nid)
    q := c.q.map (fun x => match x.bind with | some b => if b.node = nid then {} else x | none => x)
    lk := c.lk.map (fun x => match x.bind with | some b => if b.1 = nid then {} else x | none => x) }

/-- A node's attempt has ended or is stopped: what it still holds on cores that have no thread of it is released (entry 24). -/
def State.releaseNode (s : State) (nid : Nat) : State :=
  { s with cores := s.cores.filterMap (fun e =>
      let x := e.2.release nid
      if x = {} then none else some (e.1, x)) }

/-- A slot is freed: its thread has quit or stopped (R62, R317). -/
def State.freeSlot (s : State) (c n : Nat) : State :=
  let t := s.thread c n
  s.modCore c (fun k =>
    let k := { k with slots := mdel n k.slots }
    match t.node with | some nid => k.release nid | none => k)

/-- An attempt of a node has no live thread (R63). -/
def State.noThreads (s : State) (nid att : Nat) : Bool := !(s.contexts.any (fun t => t.ofNode nid att))

/-- Drop the contexts of an attempt that stand in no slot: in transit, in arrival queues, in granaries; descriptors of
granary contexts become kind 0 (R83, R337). -/
def State.discardContexts (s : State) (nid att : Nat) : State :=
  let gone (t : Thread) : Bool := t.ofNode nid att
  let uids := (s.contexts.filter gone).map (fun t => t.uid)
  let places := s.clusters.flatMap (fun e => (e.2.places.filter (fun p => gone p.2.ctx)).map (fun p => (e.1, p.1)))
  let s := places.foldl (fun s p => s.freePlaceAt p.1 (p.2 / 2 ^ 32) (p.2 % 2 ^ 32)) s
  { s with
    pkts := s.pkts.filter (fun p => !gone p.ctx)
    cores := s.cores.map (fun e => (e.1,
      if e.2.arrq.any gone then ({ e.2 with arrq := e.2.arrq.filter (fun t => !gone t) } : Core).release nid else e.2))
    clusters := s.clusters.map (fun e => (e.1, { e.2 with reserved := e.2.reserved.filter (fun r => !(uids.contains r.2.2)) })) }

/-- Stop every thread of an attempt: in a slot at its next group boundary, elsewhere where it lies; groups not yet placed are
discarded (R307, R83). -/
def State.stopAttempt (s : State) (gk i nid att : Nat) : State :=
  let uids := (s.contexts.filter (fun t => t.ofNode nid att)).map (fun t => t.uid)
  let s := s.discardContexts nid att
  let s := ({ s with cores := s.cores.map (fun e => (e.1, { e.2 with
    slots := e.2.slots.map (fun p => (p.1, if p.2.ofNode nid att then { p.2 with ctl := .stopReq } else p.2)) })) } : State).releaseNode nid
  match (mfind gk s.graphs).bind (fun g => g.nodes[i]?) with
  | some n => s.setNode gk i { n with groups := [], left := n.left ++ uids.filter (fun u => !n.left.contains u) }
  | none => s

/-! ## The halted bit of a core (R296, R329) -/

/-- Every thread of a core is halted. -/
def Core.allHalted (c : Core) : Bool := c.slots.all (fun e => match e.2.ctl with | .halted _ => true | _ => false)

/-- A stop of the partition has come. -/
def State.stopFired (s : State) (p : Nat) : Bool := s.stops.any (fun x => x.part == p && x.fired)

/-- The halted bit of a stopped partition's core follows its threads. -/
def State.settle (s : State) (c : Nat) : State :=
  let x := s.core c
  if s.stopFired x.tag.val ∧ x.allHalted then s.setCore c { x with halted := true } else s

/-! ## Images in place, stopping -/

/-- The image of a thread's node is in place on a core (R29, R57). -/
def State.imageReady (s : State) (c : Nat) (t : Thread) : Bool :=
  match t.node with
  | none => true
  | some nid => (s.core c).claims.any (fun k => k.node == nid && k.attempt == t.attempt && k.ready)

/-- The claim of a thread's node on a core, taken where it is not held (R53, R57). -/
def State.takeClaim (s : State) (c : Nat) (t : Thread) : State :=
  match t.node, s.launchOf t.node with
  | some nid, some l => s.modCore c (fun k => k.take nid t.attempt l)
  | _, _ => s

/-- THREAD_STOP: the slot of a stopping thread is freed once its accesses are performed, those that failed with their replies apart, and
its engine operations have finished; the replies of its accesses are discarded (R317). -/
def State.threadStop (s : State) (c n : Nat) : Option State :=
  match s.thread? c n with
  | none => none
  | some t =>
    match t.ctl with
    | .stopReq =>
      -- a GWTAKE that waits takes no entry (R223)
      let s : State := { s with ports := s.ports.map (fun (e : Nat × Port) =>
        (e.1, { e.2 with gwq := e.2.gwq.filter (fun o => o.iss.uid != t.uid) })) }
      let s := { s with net := s.net.filter (fun a => !(a.iss.uid == t.uid && a.performed)) }.dropWaiter (.engineMailboxPost t.uid)
      if s.drained t.uid ∧ ¬ s.engineBusy t.uid then
        some ((s.freeSlot c n).settle c)
      else none
    | _ => none

/-- THREAD_STOP (R317). -/
def execThreadStop (c n : Nat) (s : State) : Host.Outcome State Fault Refusal := event s (s.threadStop c n)

end Sys2Proof.Machine
end

