-- ==== Sys2Proof/Machine/Scalar.lean ====
section
/-! DEFINITION. Page 0: integer arithmetic and logic, QWAIT and GETS (R152 to R159, R164, R165). -/

namespace Sys2Proof.Machine

/-- Shifts by the low six bits of a count (R155). -/
def shl64 (a b : Dword) : Dword := a <<< (b.toNat % 64)
def shr64 (a b : Dword) : Dword := a >>> (b.toNat % 64)
def sar64 (a b : Dword) : Dword := a.sshiftRight (b.toNat % 64)

/-- The index of the lowest 1 bit; 64 for none. -/
def lowBit (x : Dword) : Nat := ((List.range 64).find? (fun i => x.getLsbD i)).getD 64

/-- The number of 1 bits. -/
def popCount (x : Dword) : Nat := (List.range 64).countP (fun i => x.getLsbD i)

/-- Bits of a width. -/
def widthBits : Width → Nat | .w64 => 64 | .w32 => 32 | .w16 => 16 | .w8 => 8

/-- A two-address instruction: d ← f D S (R152, R153). Its operands are read in the order d, s, t and its push is judged last; the first
that cannot be taken decides, so that a read of an empty queue waits ahead of the trap of a later operand whose queue or link is not bound:
the model's choice (R45, entry 92). -/
def twoAddress (s : State) (d : Opnd) (src : Src) (f : Dword → Dword → Dword) : Eff :=
  atomically s (do
    let (a, s) ← readO s d
    let (b, s) ← readS s src
    done (← writeO s d (f a b)))

/-- An instruction that does not read d: d ← f S. -/
def oneSource (s : State) (d o : Opnd) (f : Dword → Dword) : Eff :=
  atomically s (do
    let (x, s) ← readO s o
    done (← writeO s d (f x)))

/-- ADD (R155): D + S. -/
def execAdd (d : Opnd) (o : Src) (s : State) : Host.Outcome State Fault Refusal :=
  finish s (twoAddress s d o (fun a b => a + b))

/-- SUB (R155): D − S. -/
def execSub (d : Opnd) (o : Src) (s : State) : Host.Outcome State Fault Refusal :=
  finish s (twoAddress s d o (fun a b => a - b))

/-- MUL (R155): the low 64 bits of D × S. -/
def execMul (d : Opnd) (o : Src) (s : State) : Host.Outcome State Fault Refusal :=
  finish s (twoAddress s d o (fun a b => a * b))

/-- MULH (R155): the high 64 bits of the signed product. -/
def execMulh (d : Opnd) (o : Src) (s : State) : Host.Outcome State Fault Refusal :=
  finish s (twoAddress s d o (fun a b => BitVec.ofInt 64 (a.toInt * b.toInt / 2 ^ 64)))

/-- MULHN (R155): the high 64 bits of the unsigned product. -/
def execMulhn (d : Opnd) (o : Src) (s : State) : Host.Outcome State Fault Refusal :=
  finish s (twoAddress s d o (fun a b => BitVec.ofNat 64 (a.toNat * b.toNat / 2 ^ 64)))

/-- DIV (R156): rounds toward zero; −1 for S = 0. -/
def execDiv (d : Opnd) (o : Src) (s : State) : Host.Outcome State Fault Refusal :=
  finish s (twoAddress s d o (fun a b => if b = 0 then BitVec.allOnes 64 else BitVec.ofInt 64 (a.toInt.tdiv b.toInt)))

/-- DIVN (R156): all ones for S = 0. -/
def execDivn (d : Opnd) (o : Src) (s : State) : Host.Outcome State Fault Refusal :=
  finish s (twoAddress s d o (fun a b => if b = 0 then BitVec.allOnes 64 else BitVec.ofNat 64 (a.toNat / b.toNat)))

/-- REM (R156): the dividend's sign; D for S = 0. -/
def execRem (d : Opnd) (o : Src) (s : State) : Host.Outcome State Fault Refusal :=
  finish s (twoAddress s d o (fun a b => if b = 0 then a else BitVec.ofInt 64 (a.toInt.tmod b.toInt)))

/-- REMN (R156): D for S = 0. -/
def execRemn (d : Opnd) (o : Src) (s : State) : Host.Outcome State Fault Refusal :=
  finish s (twoAddress s d o (fun a b => if b = 0 then a else BitVec.ofNat 64 (a.toNat % b.toNat)))

/-- AND (R155). -/
def execAnd (d : Opnd) (o : Src) (s : State) : Host.Outcome State Fault Refusal :=
  finish s (twoAddress s d o (fun a b => a &&& b))

/-- OR (R155). -/
def execOr (d : Opnd) (o : Src) (s : State) : Host.Outcome State Fault Refusal :=
  finish s (twoAddress s d o (fun a b => a ||| b))

/-- XOR (R155). -/
def execXor (d : Opnd) (o : Src) (s : State) : Host.Outcome State Fault Refusal :=
  finish s (twoAddress s d o (fun a b => a ^^^ b))

/-- ANDN (R155): D and not S. -/
def execAndn (d : Opnd) (o : Src) (s : State) : Host.Outcome State Fault Refusal :=
  finish s (twoAddress s d o (fun a b => a &&& ~~~b))

/-- SHL (R155): by S[5:0]. -/
def execShl (d : Opnd) (o : Src) (s : State) : Host.Outcome State Fault Refusal :=
  finish s (twoAddress s d o (fun a b => shl64 a b))

/-- SHR (R155): by S[5:0], zeros entering. -/
def execShr (d : Opnd) (o : Src) (s : State) : Host.Outcome State Fault Refusal :=
  finish s (twoAddress s d o (fun a b => shr64 a b))

/-- SAR (R155): by S[5:0], the sign entering. -/
def execSar (d : Opnd) (o : Src) (s : State) : Host.Outcome State Fault Refusal :=
  finish s (twoAddress s d o (fun a b => sar64 a b))

/-- ROL (R155): by S[5:0]. -/
def execRol (d : Opnd) (o : Src) (s : State) : Host.Outcome State Fault Refusal :=
  finish s (twoAddress s d o (fun a b => a.rotateLeft (b.toNat % 64)))

/-- MIN (R155), signed. -/
def execMin (d : Opnd) (o : Src) (s : State) : Host.Outcome State Fault Refusal :=
  finish s (twoAddress s d o (fun a b => if a.toInt ≤ b.toInt then a else b))

/-- MAX (R155), signed. -/
def execMax (d : Opnd) (o : Src) (s : State) : Host.Outcome State Fault Refusal :=
  finish s (twoAddress s d o (fun a b => if a.toInt ≤ b.toInt then b else a))

/-- MINN (R155), unsigned. -/
def execMinn (d : Opnd) (o : Src) (s : State) : Host.Outcome State Fault Refusal :=
  finish s (twoAddress s d o (fun a b => if a.toNat ≤ b.toNat then a else b))

/-- MAXN (R155), unsigned. -/
def execMaxn (d : Opnd) (o : Src) (s : State) : Host.Outcome State Fault Refusal :=
  finish s (twoAddress s d o (fun a b => if a.toNat ≤ b.toNat then b else a))

/-- SEQ (R155). -/
def execSeq (d : Opnd) (o : Src) (s : State) : Host.Outcome State Fault Refusal :=
  finish s (twoAddress s d o (fun a b => BitVec.ofNat 64 (b2n (a == b))))

/-- SLT (R155), signed. -/
def execSlt (d : Opnd) (o : Src) (s : State) : Host.Outcome State Fault Refusal :=
  finish s (twoAddress s d o (fun a b => BitVec.ofNat 64 (b2n (decide (a.toInt < b.toInt)))))

/-- SLTN (R155), unsigned. -/
def execSltn (d : Opnd) (o : Src) (s : State) : Host.Outcome State Fault Refusal :=
  finish s (twoAddress s d o (fun a b => BitVec.ofNat 64 (b2n (decide (a.toNat < b.toNat)))))

/-- CLZ (R155): 64 for S = 0. -/
def execClz (d o : Opnd) (s : State) : Host.Outcome State Fault Refusal :=
  finish s (oneSource s d o (fun x => BitVec.ofNat 64 (if x = 0 then 64 else 63 - Nat.log2 x.toNat)))

/-- CTZ (R155): 64 for S = 0. -/
def execCtz (d o : Opnd) (s : State) : Host.Outcome State Fault Refusal :=
  finish s (oneSource s d o (fun x => BitVec.ofNat 64 (lowBit x)))

/-- POPC (R155). -/
def execPopc (d o : Opnd) (s : State) : Host.Outcome State Fault Refusal :=
  finish s (oneSource s d o (fun x => BitVec.ofNat 64 (popCount x)))

/-- MOV (R155). -/
def execMov (d o : Opnd) (s : State) : Host.Outcome State Fault Refusal :=
  finish s (oneSource s d o (fun x => x))

/-- EXT: S[w−1:0] extended (R158). -/
def execExt (d o : Opnd) (w : Width) (sign : Bool) (s : State) : Host.Outcome State Fault Refusal :=
  finish s (oneSource s d o (fun x => scalarResult sign (widthBits w) x.toNat))

/-- MOVI (R157). -/
def execMovi (d : Opnd) (imm : Dword) (s : State) : Host.Outcome State Fault Refusal :=
  finish s (atomically s (do done (← writeO s d imm)))

/-- ADDI (R157). -/
def execAddi (d : Opnd) (imm : Dword) (s : State) : Host.Outcome State Fault Refusal :=
  finish s (twoAddress s d (.imm imm) (fun a b => a + b))

/-- SHLI (R157). -/
def execShli (d : Opnd) (imm : Dword) (s : State) : Host.Outcome State Fault Refusal :=
  finish s (twoAddress s d (.imm imm) (fun a b => shl64 a b))

/-- SHRI (R157). -/
def execShri (d : Opnd) (imm : Dword) (s : State) : Host.Outcome State Fault Refusal :=
  finish s (twoAddress s d (.imm imm) (fun a b => shr64 a b))

/-- SARI (R157). -/
def execSari (d : Opnd) (imm : Dword) (s : State) : Host.Outcome State Fault Refusal :=
  finish s (twoAddress s d (.imm imm) (fun a b => sar64 a b))

/-- CSEL: s and t are popped either way; d ← S when t is not zero (R159). -/
def execCsel (d : Fin 24) (o t : Opnd) (s : State) : Host.Outcome State Fault Refusal :=
  finish s (atomically s (do
    let (x, s) ← readO s o
    let (c, s) ← readO s t
    done (if c = 0 then s else writeG s d x)))

/-- QWAIT: the binding checks, then wait for entries or room; nothing changes (R164). -/
def execQwait (d : Opnd) (n : BitVec 5) (s : State) : Host.Outcome State Fault Refusal :=
  finish s (
    match d with
    | .q i =>
      let r := queueRoles s i
      let k := ((s.core s.cur.core).queue i).ent.length
      if r.1 = false ∧ r.2 = false then .error (unbound d)
      else if (if r.2 then decide (n.toNat ≤ k) else decide (n.toNat ≤ 16 - k)) then done s
      else .error (.wait s .qwait)
    | .link x =>
      if linkBound s x = false then .error (unbound d)
      else if n.toNat ≤ ((s.core s.cur.core).link x).ent.length then done s
      else .error (.wait s .qwait)
    | _ => done s)

/-- The logical core number of a core in its partition's table: the lowest n whose valid entry names it, or all ones (R165, R357).
The cores of the I/O die read their own number. -/
def State.logicalOf (s : State) (c : Nat) : Dword :=
  if isCompute c then
    let p := (s.core c).tag.val
    let lo := lctKey p (pkgOf c) 0
    match (mslice lo (lo + 2048) s.lct).find? (fun e => bitAt e.2.toNat 63 && bits e.2.toNat 10 0 == idxOf c) with
    | some e => BitVec.ofNat 64 (e.1 - lo)
    | none => BitVec.allOnes 64
  else BitVec.ofNat 64 (idxOf c)

/-- The value of a GETS selector (R165, R370). A thread of the service stands in no node: its node index is free (entry 7), its level
indices and extents read 0 (entry 94). -/
def State.getsValue (s : State) (sel : Nat) : Dword × State :=
  let c := s.cur.core
  let t := s.cth
  let k (n : Nat) : Dword × State := (BitVec.ofNat 64 n, s)
  if 8 ≤ sel ∧ sel < 16 then k (t.lvIdx.getD (sel - 8) 0)
  else if 16 ≤ sel ∧ sel < 24 then k (t.lvExt.getD (sel - 16) 0)
  else match sel with
    | 0 => k t.tid
    | 1 => k (idxOf c)
    | 2 => (s.logicalOf c, s)
    | 3 => k s.cur.slot
    | 4 => match t.node with | some nid => k (nid % 4096) | none => if isGateway c then (BitVec.allOnes 64, s) else s.freeW
    | 5 => k t.attempt
    | 6 => k s.counter
    | 24 => (match s.localSeg c t with
      | some (j, _) => (BitVec.ofNat 64 j, s)
      | none => (BitVec.allOnes 64, s))
    | 25 => k s.ctag
    | 26 => k (if isCompute c then idxOf c / 512 else 4)
    | _ => k (if isCompute c then idxOf c / 64 % 8 else if isService c then idxOf c - 2048 else gwPort c)

/-- GETS (R165). -/
def execGets (d : Opnd) (sel : BitVec 5) (s : State) : Host.Outcome State Fault Refusal :=
  finish s (atomically s (
    let (x, s) := s.getsValue sel.toNat
    do done (← writeO s d x)))

end Sys2Proof.Machine
end

