-- ==== Sys2Proof/Machine/Graph.lean ====
section
/-! DEFINITION. Records a graph submission reads and checks: launch records, segment and checkpoint tables, graph and node records
(R39, R49 to R52, R56, R298, R299, R301, R327, R328). -/

namespace Sys2Proof.Machine

/-! ## Reading records -/

/-- A program of a submission that may end with a result code. -/
abbrev Subm (α : Type) := ExceptT Int Eng α

def Subm.need (b : Bool) (code : Int) : Subm Unit := if b then pure () else throw code

/-- n bytes at an address as a number; a read that is refused ends with the code (R300). -/
def Subm.rd (code : Int) (r : Req) (a : Dword) (n : Nat) : Subm Nat := fun s =>
  match (Eng.rdBuf r a n) s with
  | .ok (b, s) => .ok (.ok (leNat b), s)
  | .error (.refused s _) => .ok (.error code, s)
  | .error e => .error e

/-- A record in global memory that a device may read (R49, R298, R327). -/
def globalRecord (a : Dword) (n align : Nat) : Bool :=
  decide (raSpace a = 5) && engineAddrOk a n 8 && decide (a.toNat % align = 0)

/-! ## Partitions' cores (R50, R53, R56) -/

/-- The cores a partition holds on a package, in increasing logical number (R357). -/
def State.holdings (s : State) (p pkg : Nat) : List Nat :=
  ((List.range 2048).filterMap (fun n => match s.lcore p pkg n with
    | some c => if isCompute c ∧ (s.core c).tag.val = p then some c else none
    | none => none)).eraseDups

/-- Cores of a cluster a group of a node may take now or, with every slot free and no claim, ever. -/
def clusterOk (cores : List Nat) (k n : Nat) (ok : Nat → Bool) : Bool :=
  decide (n ≤ (cores.filter (fun c => decide (cluOf c = k) && ok c)).length)

/-- The clusters of a die. -/
def dieClusters (die : Nat) : List Nat := tab 8 (fun j => die / 4 * 64 + die % 4 * 8 + j)

/-- The extent of a domain among the levels, 1 where it is left out (R50, R51). -/
def levelExtent (ls : List Level) (d : Nat) : Nat := ((ls.find? (fun l => l.domain == d)).map (·.extent)).getD 1

/-- A group of a launch can ever be placed on a die: enough clusters with enough cores whose quota holds its slots (R56). -/
def State.fitsEver (s : State) (p die : Nat) (ls : List Level) : Bool :=
  let cores := (s.holdings p (die / 4)).filter (fun c => decide (dieOf c = die))
  decide (levelExtent ls 2 ≤ ((dieClusters die).filter (fun k =>
    clusterOk cores k (levelExtent ls 3) (fun c => decide (levelExtent ls 4 ≤ min 32 (s.core c).quota)))).length)

/-- The share split: the indices entry j receives, from and up to (R52). -/
def shareRange (e : Nat) (ws : List Nat) (j : Nat) : Nat × Nat :=
  let w := ws.sum
  let before := (ws.take j).sum
  if w = 0 then (0, 0) else (e * before / w, e * (before + ws.getD j 0) / w)

/-- The groups of a launch on its dies: those of the partition vector, or all on one chosen die (R50 to R53). -/
def launchGroups (l : Launch) (chosen : Nat) : List Group :=
  let dies := if l.shares = [] then [chosen] else l.shares.map (fun x => x.pkg * 4 + x.die)
  let ws := if l.shares = [] then [1] else l.shares.map (·.weight)
  match l.levels.find? (fun v => v.domain < 2) with
  | none => [{ die := dies.getD 0 0, lv := none }]
  | some v =>
    let at_ := (List.range l.levels.length).findSome? (fun i => if (l.levels.getD i v).domain < 2 then some i else none)
    if v.domain = 0 then
      (List.range dies.length).flatMap (fun j =>
        let (lo, hi) := shareRange v.extent ws j
        tab (hi - lo) (fun i => { die := dies.getD j 0, lv := some (at_.getD 0, lo + i) }))
    else tab v.extent (fun i => { die := dies.getD i 0, lv := some (at_.getD 0, i) })

/-! ## The segment table (R39) -/

/-- An entry of a segment table, as a 128-bit number, for a partition. -/
def State.segEntryOk (s : State) (p x : Nat) : Bool :=
  let space := bits x 127 124
  let limit := bits x 103 64
  let base := bits x 55 0
  decide (space ≤ 6 ∧ bits x 119 104 = 0 ∧ bits x 63 56 = 0) && decide (base ||| spaceMask space = spaceMask space) &&
    (space != 0 || limit == 0) &&
    (space == 0 || decide (base % spaceExtent space + limit ≤ spaceExtent space)) &&
    (space != 2 && space != 4 && space != 6 || (s.lcore p (bits base 45 40) (bits base 39 29)).isSome)

def segOfNat (x : Nat) : Seg := segOfWords (BitVec.ofNat 64 x) (BitVec.ofNat 64 (x / 2 ^ 64))

/-- The segments a launch names: the table, or that of R28 (R39, R56). -/
def readSegs (r : Req) (p : Nat) (a : Dword) : Subm (List Seg) :=
  if a = 0 then pure defaultSegs.toList
  else do
    Subm.need (decide (raSpace a = 4 ∨ raSpace a = 5) && engineAddrOk a 128 8 && decide (a.toNat % 16 = 0)) (-2)
    let x ← Subm.rd (-2) r a 128
    let es := tab 8 (fun i => bits x (128 * i + 127) (128 * i))
    let s ← get
    Subm.need (es.all (s.segEntryOk p)) (-2)
    pure (es.map segOfNat)

/-! ## The checkpoint table (R327, R328) -/

/-- Range j of a checkpoint entry, if it is well formed. -/
def chkRangeOk (used : Bool) (x : Nat) : Bool :=
  if used then
    decide (bits x 62 44 = 0 ∧ bits x 23 19 = 0) &&
      decide (bits x 18 0 + bits x 43 24 ≤ (if bitAt x 63 then 0x2000 else 0x80000))
  else x == 0

def chkOfNat (x : Nat) : Chk :=
  { number := bits x 15 0
    ranges := tab (bits x 17 16) (fun j =>
      let y := bits x (64 * j + 127) (64 * j + 64)
      { w := bitAt y 63, start := bits y 18 0, len := bits y 43 24 }) }

def readChk (r : Req) (a : Dword) : Subm (List Chk) :=
  if a = 0 then pure []
  else do
    Subm.need (globalRecord a 16 16) (-1)
    let h ← Subm.rd (-1) r a 16
    let n := bits h 15 0
    Subm.need (decide (h / 65536 = 0 ∧ 1 ≤ n ∧ n ≤ 256) && globalRecord a (16 + 32 * n) 16) (-1)
    let xs ← (List.range n).mapM (fun j => Subm.rd (-1) r (raAdd a (16 + 32 * j)) 32)
    Subm.need (xs.all (fun x => bits x 63 18 == 0 && (List.range 3).all (fun j =>
      chkRangeOk (decide (j < bits x 17 16)) (bits x (64 * j + 127) (64 * j + 64))))) (-1)
    let cs := xs.map chkOfNat
    Subm.need (decide ((cs.map (·.number)).eraseDups.length = n)) (-1)
    pure cs

/-! ## The launch record (R49, R50, R56) -/

/-- Levels, shares, queues and links are well formed (the first item of R56). A number of levels above 8 or of shares above 16, which R49
does not provide for and R56 does not name, is refused with them: the model's choice (entry 93). -/
def launchFieldsOk (x : Nat) : Bool :=
  let nl := bits x 1063 1060
  let ns := bits x 1068 1064
  let lv (i : Nat) : Nat := bits x (128 + 64 * i + 63) (128 + 64 * i)
  let sh (i : Nat) : Nat := bits x (640 + 16 * i + 15) (640 + 16 * i)
  let qu (i : Nat) : Nat := bits x (960 + 16 * i + 15) (960 + 16 * i)
  let lk (i : Nat) : Nat := bits x (1024 + 8 * i + 7) (1024 + 8 * i)
  let dom (i : Nat) : Nat := bits (lv i) 34 32
  let lim (d : Nat) : Nat := match d with | 1 => max 1 ns | 2 => 8 | 3 => 64 | 4 => 32 | _ => 2 ^ 32 - 1
  decide (x / 2 ^ 1920 = 0 ∧ bits x 1407 1344 = 0 ∧ bits x 1087 1069 = 0 ∧ bits x 1059 1058 = 0 ∧ nl ≤ 8 ∧ ns ≤ 16) &&
    (List.range 8).all (fun i => if i < nl then
      decide (bits (lv i) 63 38 = 0 ∧ bits (lv i) 37 35 < 6 ∧ dom i < 6 ∧ bits (lv i) 31 0 ≠ 0 ∧ bits (lv i) 31 0 ≤ lim (dom i)) &&
        (i == 0 || (decide (dom (i - 1) < dom i) && !(dom (i - 1) == 0 && dom i == 1)))
      else lv i == 0) &&
    (List.range 16).all (fun i => if i < ns then decide (bits (sh i) 7 0 ≠ 0) else sh i == 0) &&
    (List.range 4).all (fun i => (if bitAt (qu i) 15 then bits (qu i) 14 10 == 0 else qu i == 0) &&
      (if bitAt (lk i) 7 then bits (lk i) 6 5 == 0 else lk i == 0))

/-- The fields of a launch record, but for its tables. -/
def launchOf (x : Nat) : Launch :=
  let imglen := bits x 95 64
  let sh := bits x 959 928
  { image := BitVec.ofNat 64 (bits x 63 0), imglen := imglen, entry := bits x 127 96
    levels := tab (bits x 1063 1060) (fun i =>
      let y := bits x (128 + 64 * i + 63) (128 + 64 * i)
      { scope := bits y 37 35, domain := bits y 34 32, extent := bits y 31 0 })
    shares := tab (bits x 1068 1064) (fun i =>
      let y := bits x (640 + 16 * i + 15) (640 + 16 * i)
      { pkg := bits y 15 10, die := bits y 9 8, weight := bits y 7 0 })
    winbytes := bits x 927 896
    claim := if sh = 0 then roundUp imglen 16 else sh
    queues := tab 4 (fun i =>
      let y := bits x (960 + 16 * i + 15) (960 + 16 * i)
      if bitAt y 15 then some (Fin.ofNat 32 (bits y 9 5), Fin.ofNat 32 (bits y 4 0)) else none)
    links := tab 4 (fun i =>
      let y := bits x (1024 + 8 * i + 7) (1024 + 8 * i)
      if bitAt y 7 then some (Fin.ofNat 32 (bits y 4 0)) else none)
    travel := bitAt x 1056, retry := bitAt x 1057, segs := [], segmap := BitVec.ofNat 64 (bits x 1215 1152), chk := []
    handler := bits x 1311 1280, origin := bits x 1343 1312
    args := tab 4 (fun i => BitVec.ofNat 64 (bits x (1408 + 64 * i + 63) (1408 + 64 * i)))
    packet := tab 4 (fun i => BitVec.ofNat 64 (bits x (1664 + 64 * i + 63) (1664 + 64 * i))) }

/-- The image, entry, handler and map of a launch (items 2 and 3 of R56), and what travel mode asks of it (R68). An image whose bytes run
past the extent of space 0x5 is refused here too, where R56 is silent: the model's choice (entry 93). -/
def launchImageOk (l : Launch) : Bool :=
  decide (l.origin % 16 = 0) && decide (raSpace l.image = 5) && engineAddrOk l.image l.imglen 8 &&
    decide (l.origin + l.imglen ≤ 0x40000 ∧ l.entry % 2 = 0 ∧ l.origin ≤ l.entry ∧ l.entry < l.origin + l.imglen) &&
    (!l.travel || (l.levels.isEmpty || l.levels.any (fun v => v.domain == 3)) && raSpace l.segmap == 3 && engineAddrOk l.segmap 16 8 &&
      decide (l.segmap.toNat % 16 = 0)) &&
    (l.handler == 0 || decide (l.origin ≤ l.handler ∧ l.handler < l.origin + l.claim))

/-- Every share entry names a die on which the partition holds cores (item 4 of R56). -/
def State.sharesOk (s : State) (p : Nat) (l : Launch) : Bool :=
  l.shares.all (fun x => (s.holdings p x.pkg).any (fun c => dieOf c == x.pkg * 4 + x.die))

/-- Window, claim and room of a launch (the oversized-share items of R56). -/
def State.launchRoom (s : State) (p x : Nat) (l : Launch) : Bool :=
  decide (l.winbytes ≤ 0x2000) && !(bits x 959 928 != 0 && decide (bits x 959 928 < l.imglen)) &&
    decide (l.origin + l.claim ≤ 0x40000) &&
    (if l.shares = [] then (List.range 4).any (fun d => s.fitsEver p (s.boot.pkg * 4 + d) l.levels)
     else ((launchGroups l 0).map (·.die)).eraseDups.all (fun d => s.fitsEver p d l.levels))

/-- A launch record, checked in the order of R56; the checkpoint table's checks stand with those of the record (R328). -/
def readLaunch (r : Req) (p : Nat) (a : Dword) : Subm Launch := do
  Subm.need (globalRecord a 256 64) (-1)
  let x ← Subm.rd (-1) r a 256
  let l := launchOf x
  let s ← get
  Subm.need (launchFieldsOk x) (-1)
  Subm.need (launchImageOk l) (-1)
  Subm.need (s.sharesOk p l) (-1)
  let chk ← readChk r (BitVec.ofNat 64 (bits x 1279 1216))
  let segs ← readSegs r p (BitVec.ofNat 64 (bits x 1151 1088))
  Subm.need (s.launchRoom p x l) (-3)
  pure { l with chk := chk, segs := segs }

/-! ## Graph and node records (R298, R299, R301) -/

/-- A successor list with a cycle: some nodes remain when those without a predecessor among the rest are removed, again and again. -/
def acyclic (succ : List (List Nat)) : Nat → List Nat → Bool
  | 0, rest => rest.isEmpty
  | n + 1, rest =>
    let hit (i : Nat) : Bool := rest.any (fun j => (succ.getD j []).contains i)
    let next := rest.filter hit
    if next.isEmpty then true else if next.length = rest.length then false else acyclic succ n next

/-- A node record as a 1,024-bit number, in a graph of count nodes (R299, R301). -/
def nodeFieldsOk (x count : Nat) : Bool :=
  let ns := bits x 12 8
  let succ (j : Nat) : Nat := bits x (512 + 16 * j + 15) (512 + 16 * j)
  decide (x / 2 ^ 768 = 0 ∧ bits x 511 368 = 0 ∧ bits x 23 19 = 0 ∧ bits x 15 13 = 0 ∧ bits x 7 2 = 0) &&
    decide (bits x 47 32 = 0 ∧ bits x 31 28 = 0 ∧ bits x 18 16 = 0 ∧ bits x 367 192 = 0) && decide (ns ≤ 16) &&
    (List.range 16).all (fun j => if j < ns then decide (succ j < count) else succ j == 0)

def nodeOfNat (x : Nat) : Node :=
  { kind := match bits x 1 0 with | 0 => .kernel | 1 => .copy | 2 => .signal | _ => .sub
    need := bits x 63 48, budget := bits x 27 24, state := .waiting
    succ := tab (bits x 12 8) (fun j => bits x (512 + 16 * j + 15) (512 + 16 * j))
    arg := BitVec.ofNat 64 (bits x 191 128) }

/-- Addresses the scheduler may use: no space 0x1 or 0x3 (R301). -/
def schedAddrOk (a : Dword) (n right : Nat) : Bool := engineAddrOk a n right && raSpace a != 1 && raSpace a != 3

/-- The fields of a graph record (R298, R301). -/
def graphFieldsOk (a : Dword) (x : Nat) : Bool :=
  let count := bits x 15 0
  let nodes : Dword := BitVec.ofNat 64 (bits x 319 256)
  let mbox : Dword := BitVec.ofNat 64 (bits x 383 320)
  let flist : Dword := BitVec.ofNat 64 (bits x 447 384)
  let pw : Dword := BitVec.ofNat 64 (bits x 511 448)
  decide (bits x 255 72 = 0 ∧ bits x 47 16 = 0 ∧ 1 ≤ count ∧ count ≤ 4096 ∧ bits x 71 64 = 0) &&
    decide (raRights a &&& 4 ≠ 0) && globalRecord nodes (128 * count) 128 && decide (raRights nodes &&& 4 ≠ 0) &&
    schedAddrOk mbox 32 4 && decide (4 ≤ raSpace mbox ∧ raSpace mbox ≤ 5) && decide (mbox.toNat % 32 = 0) &&
    (flist == 0 || (schedAddrOk flist 0 4 && decide (4 ≤ raSpace flist ∧ raSpace flist ≤ 5 ∧ flist.toNat % 2 = 0))) &&
    (pw == 0 || (phaseAddrOk pw && raSpace pw != 1 && raSpace pw != 3))

/-- A copy node's descriptor (R299, R301). -/
def readCopy (r : Req) (a : Dword) : Subm (Dword × Dword × Nat) := do
  Subm.need (globalRecord a 32 32) (-4)
  let x ← Subm.rd (-4) r a 32
  let dst : Dword := BitVec.ofNat 64 (bits x 63 0)
  let src : Dword := BitVec.ofNat 64 (bits x 127 64)
  Subm.need (bits x 255 192 == 0 && schedAddrOk dst 0 4 && schedAddrOk src 0 8) (-4)
  pure (dst, src, bits x 191 128)

/-- Read one graph record and its nodes (R301). -/
def readGraph (r : Req) (a : Dword) (parent : Option (Nat × Nat)) : Subm GRead := do
  Subm.need (globalRecord a 64 64) (-4)
  let x ← Subm.rd (-4) r a 64
  Subm.need (graphFieldsOk a x) (-4)
  let count := bits x 15 0
  let ws ← (List.range count).mapM (fun i => Subm.rd (-4) r (raAdd (BitVec.ofNat 64 (bits x 319 256)) (128 * i)) 128)
  Subm.need (ws.all (fun w => nodeFieldsOk w count)) (-4)
  let ns := ws.map nodeOfNat
  Subm.need (acyclic (ns.map (·.succ)) count (List.range count)) (-4)
  Subm.need (ns.all (fun n => n.kind != .sub || n.budget == 0)) (-4)
  let ns ← ns.mapM (fun n => if n.kind = .copy then do
      let c ← readCopy r n.arg
      pure { n with copy := some c }
    else pure n)
  pure { addr := a, word := x, nodes := ns, parent := parent }

/-- The subgraphs a graph names, as yet unread: address, parent's place in the list, node. -/
def GRead.subs (g : GRead) (me : Nat) : List (Dword × Nat × Nat) :=
  ((List.range g.nodes.length).zip g.nodes).filterMap (fun e => if e.2.kind = .sub then some (e.2.arg, me, e.1) else none)

/-- Read the graphs of a list of names and, below each, its subgraphs, `depth` levels more (R301). -/
def readSubs (r : Req) : Nat → List (Dword × Nat × Nat) → List GRead → Subm (List GRead)
  | 0, names, done => do
    Subm.need names.isEmpty (-4)
    pure done
  | depth + 1, names, done =>
    names.foldlM (fun (done : List GRead) e => do
      Subm.need (done.all (fun g => raField g.addr != raField e.1)) (-4)
      let g ← readGraph r e.1 (some e.2)
      let me := done.length
      readSubs r depth (g.subs me) (done ++ [g])) done

/-- Every graph of a submission, the submitted one first, each before its subgraphs, with the launch records of their kernel nodes
(R56, R301). -/
def readSubmission (r : Req) (p : Nat) (a : Dword) : Subm (List GRead) := do
  let g ← readGraph r a none
  let gs ← readSubs r 4 (g.subs 0) [g]
  gs.mapM (fun g => do
    let ns ← g.nodes.mapM (fun n => if n.kind = .kernel then do
        let l ← readLaunch r p n.arg
        pure { n with launch := some l }
      else pure n)
    pure { g with nodes := ns })

end Sys2Proof.Machine
end

