-- ==== Sys2Proof/Machine/ThreadI.lean ====
section
/-! DEFINITION. SPAWN and QUIT, requests, traps and handlers, signals, segments, checkpoints, yield and wake (R59 to R63, R166 to R178,
R292). -/

namespace Sys2Proof.Machine

/-! ## SPAWN (R60, R61) -/

/-- The thread SPAWN asks for (R60). -/
def State.childOf (s : State) (e : Dword) (args : List Dword) : Thread :=
  let t := s.cth
  let handler := match s.launchOf t.node with | some l => l.handler | none => 0
  { g := Vector.ofFn (fun i => if i.val < 4 then args.getD i.val 0 else 0)
    sg := t.sg, p := t.p, node := t.node, attempt := t.attempt, lvIdx := t.lvIdx, lvExt := t.lvExt, origin := t.origin
    handler := BitVec.ofNat 64 handler, pc := e }

/-- The answer is read into the registers (R60, R175). -/
def takeAnswer (s : State) (p : Posted) : Eff :=
  done (p.res.foldl (fun s e => writeG s e.1 e.2) (s.modCth (fun t => { t with posted := none })))

/-- SPAWN: the sender's table is consulted as it stands, and the request goes to the slot allocator of the core it names, whose reply the
thread awaits (R60, R357). -/
def execSpawn (d r t : Fin 24) (s : State) : Host.Outcome State Fault Refusal :=
  finish s (match s.cth.posted with
    | some p => takeAnswer s p
    | none => do
      let e ← readG s t
      let n ← readG s d
      let args ← readGroup s r 4
      if bitAt e.toNat 0 then .error (.trap 0x05 e)
      else if 0x40000 ≤ e.toNat then .error (.trap 0x03 e)
      else
        let target := if n.toNat < 2048 then s.lcore s.ctag (pkgOf s.cur.core) n.toNat else none
        if isGateway s.cur.core ∨ (n ≠ BitVec.allOnes 64 ∧ target = none) then
          done (writeG s d (BitVec.ofInt 64 (-3)))
        else
          let q : SpawnReq := {
            iss := s.issuer, d := d, target := if n = BitVec.allOnes 64 then none else target, entry := e, child := s.childOf e args }
          .error (.mail { s with spawns := s.spawns ++ [q] } .spawn))

/-- The node of a request has faulted, is being cancelled, or is gone (R60). -/
def State.nodeStopped (s : State) (t : Thread) : Bool :=
  match t.node with
  | none => false
  | some nid => match s.nodeOf nid with
    | some (_, _, n) => n.attempt != t.attempt || n.state != .running || n.faulted
    | none => true

/-- The claim range, queues or links of a thread's node conflict with another node's on a core (R53, R60). -/
def State.spawnConflict (s : State) (c : Nat) (t : Thread) : Bool :=
  match t.node, s.launchOf t.node with
  | some nid, some l => (s.core c).conflict nid l
  | _, _ => false

/-- The next id of a node is past the last (R60). -/
def State.idsGone (s : State) (t : Thread) : Bool :=
  match t.node with
  | none => false
  | some nid => match s.nodeOf nid with | some (_, _, n) => decide (2 ^ 40 ≤ n.nextTid) | none => false

/-- The lowest-numbered free slot. -/
def Core.emptySlot (k : Core) : Option Nat := findUp 32 (fun n => (mfind n k.slots).isNone)

/-- An allocator's answer for a core: −1, −2, or a slot (R60). -/
def State.judge (s : State) (c : Nat) (t : Thread) : Except Int Nat :=
  match (s.core c).emptySlot with
  | none => .error (-1)
  | some n =>
    if s.spawnConflict c t ∨ s.nodeStopped t then .error (-1)
    else if (s.core c).quota ≤ (s.core c).slots.length ∨ s.idsGone t then .error (-2)
    else .ok n

/-- The cores of a core's cluster that the partition holds, in increasing logical number (R60, R357). -/
def State.clusterCores (s : State) (c : Nat) : List Nat :=
  if ¬ isCompute c then []
  else (List.range 2048).filterMap (fun n => match s.lcore (s.core c).tag.val (pkgOf c) n with
    | some d => if cluOf d = cluOf c ∧ isCompute d ∧ (s.core d).tag = (s.core c).tag ∧ s.logicalOf d = BitVec.ofNat 64 n then some d else none
    | none => none)

/-- The answer to a request: a core and slot, or a negative reply (R60). -/
def State.allocate (s : State) (q : SpawnReq) : Except Int (Nat × Nat) :=
  match q.target with
  | some c => (s.judge c q.child).map (fun n => (c, n))
  | none =>
    let cs := s.clusterCores q.iss.core
    match cs.findSome? (fun c => match s.judge c q.child with | .ok n => some (c, n) | .error _ => none) with
    | some r => .ok r
    | none =>
      let quota (c : Nat) : Bool := match s.judge c q.child with | .error e => e == -2 | .ok _ => false
      .error (if cs.any quota then -2 else -1)

/-- A started thread is ready; one whose first instruction lies outside its core's local segment is in transit from here on and travels
before it issues (R57, R86). A landed one that must leave again keeps its reason. A restored context that waited for its node's image counts
as a thread that starts: the model's choice (R72, entry 84). -/
def State.startThread (s : State) (c n : Nat) : State :=
  s.modThread c n (fun t =>
    if t.leave.isNone && !s.inLocal c t t.pc.toNat 2 then
      { t with wait := .ready, fbuf := none, leave := some .start, xstat := { t.xstat with tr := true } }
    else { t with wait := .ready, fbuf := none })

/-- Place a thread in a slot, with its node's claim; it starts at once where the image is in place. -/
def State.placeThread (s : State) (c n : Nat) (t : Thread) : State :=
  let s := s.takeClaim c t
  let s := { s with nextUid := s.nextUid + 1 }.setThread c n { t with uid := s.nextUid, wait := .starting }
  if s.imageReady c t then s.startThread c n else s

/-- The id of a new thread: the node's next one; a thread of no node has none, and its id is free (R60, entry 7). -/
def State.newTid (s : State) (t : Thread) : Nat × State :=
  match t.node.bind s.nodeOf with
  | some (gk, i, n) => (n.nextTid, s.setNode gk i { n with nextTid := n.nextTid + 1 })
  | none => let (x, s) := s.freeW; (x.toNat % 2 ^ 40, s)

/-- The core of a SPAWN belongs to another partition when the request reaches its router: the tag of that core (R355, R357). -/
def State.spawnEjected (s : State) (q : SpawnReq) : Option (Nat × Nat) :=
  match q.target with
  | some c => if q.iss.tag ≠ 0 ∧ (s.core c).tag.val ≠ q.iss.tag then some (c, (s.core c).tag.val) else none
  | none => none

/-- SLOT_ALLOCATE: the allocator answers request i; the child is placed before the reply returns (R60, R63). A request that its
destination's router drops is recorded as one to a core's store, offset 0, and answered −3: the model's choices, the spec giving SPAWN
neither a place nor an error response (R355 to R357, entry 91). -/
def State.serveSpawn (s : State) (i : Nat) : Option State :=
  match s.spawns[i]? with
  | none => none
  | some q =>
    let s := { s with spawns := ldel s.spawns i }
    let reply (s : State) (x : Dword) : State := s.deliver q.iss.uid { res := [(q.d, x)], err := none, box := false }
    match s.spawnEjected q, s.allocate q with
    | some (c, owner), _ => some (reply (s.violate q.iss.tag 0 owner (idxOf c) 0) (BitVec.ofInt 64 (-3)))
    | none, .error e => some (reply s (BitVec.ofInt 64 e))
    | none, .ok (c, n) =>
      let (tid, s) := s.newTid q.child
      some (reply (s.placeThread c n { q.child with tid := tid }) (BitVec.ofNat 64 tid))

/-- SLOT_ALLOCATE (R60). -/
def execSlotAllocate (i : Nat) (s : State) : Host.Outcome State Fault Refusal := event s (s.serveSpawn i)

/-- THREAD_START: the image is in place and the thread starts (R57). -/
def execThreadStart (c n : Nat) (s : State) : Host.Outcome State Fault Refusal :=
  event s (match s.thread? c n with
    | none => none
    | some t => if t.wait = .starting ∧ s.imageReady c t then some (s.startThread c n) else none)

/-- QUIT: a release, every engine operation, the deferred traps, then the slot is freed (R62, R125). -/
def execQuit (s : State) : Host.Outcome State Fault Refusal :=
  finish s (do
    s.release
    if s.engineBusy s.cth.uid then .error (.wait s .drain)
    else do
      observeAll s.cth.deferred
      .error (.gone (s.freeSlot s.cur.core s.cur.slot)))

/-! ## Requests to the service (R172, R292) -/

/-- The eight mailbox words of a request with the values of g0 to g3 (R292). Word 2 of a thread of no node is zero: the model's choice
(entry 87). -/
def State.syscWords (s : State) (code : Dword) (args : List Dword) : List Dword :=
  let t := s.cth
  let nid := t.node.getD 0
  [BitVec.ofNat 64 (code.toNat % 2 ^ 35), BitVec.ofNat 64 (t.tid % 2 ^ 40 + t.attempt % 16 * 2 ^ 40),
   BitVec.ofNat 64 (nid / 4096 % 2 ^ 32 + nid % 4096 * 2 ^ 32), 0] ++ args

/-- SYSC: a release, the request and its kind-8 record, then the reply to g0 and g1 with an acquire (R172). On a core of the I/O die, which
has no reply register (R289), the thread waits: the model's choice (entry 94). -/
def execSysc (code : Dword) (s : State) : Host.Outcome State Fault Refusal :=
  finish s (match s.cth.sysc with
    | .none => do
      s.release
      let args ← readGroup s 0 4
      let s := s.modCore s.cur.core (fun k => k.post s.cur.slot (s.syscWords code args))
      let s := s.postRec 8 s.ctag (slotAddr s.cur.core s.cur.slot)
      .error (.mail (s.modCth (fun t => { t with sysc := .asked })) .sysc)
    | .asked => .error (.mail s .sysc)
    | .answered w0 w1 => do
      let s ← s.acquire .sys
      done (writeG (writeG (s.modCth (fun t => { t with sysc := .none })) 0 w0) 1 w1))

/-- The context saved from a slot whose SYSC awaits its reply. -/
def State.savedAsker (s : State) (c n : Nat) : Option Nat :=
  s.clusters.findSome? (fun e => e.2.places.findSome? (fun p =>
    if p.2.core = c ∧ p.2.slot = n ∧ p.2.kind ≠ 3 ∧ p.2.ctx.sysc = .asked then some p.2.ctx.uid else none))

/-- The reply of a SYSC: both words go to the slot's mailbox and end the wait of its thread, or of the thread saved from the slot
since; any other write is ignored (R289, R292). -/
def State.syscReply (s : State) (c n : Nat) (w1 : Dword) : State :=
  let w0 := mget 0 n (s.core c).scrpl
  let ans (t : Thread) : Thread := { t with sysc := .answered w0 w1, wait := match t.wait with | .mail .sysc => .ready | w => w }
  if (s.thread c n).sysc = .asked then (s.modCore c (fun k => k.post n [w0, w1])).modThread c n ans
  else match s.savedAsker c n with
    | some uid => s.modUid uid ans
    | none => s

/-- SCRPL_REPLY_WRITE (R292). -/
def execScrplReplyWrite (c n : Nat) (x : Dword) (s : State) : Host.Outcome State Fault Refusal := .next (s.syscReply c n x)

/-! ## Traps and handlers (R168 to R173) -/

/-- BRK: raises breakpoint with the code (R173). -/
def execBrk (code : Dword) (s : State) : Host.Outcome State Fault Refusal := finish s (.error (.trap 0x08 code))

/-- TRAPRET (R170). -/
def execTrapret (skip : Bool) (s : State) : Host.Outcome State Fault Refusal := finish s (s.trapReturn skip)

/-- The trap registers (R167, R169). -/
def State.trapReg (s : State) (sel : Fin 4) : Dword :=
  let t := s.cth
  match sel with
  | 0 => t.xcause.setWidth 64
  | 1 => t.xval
  | 2 => t.xpc
  | 3 => t.xstat.word (isService s.cur.core)

/-- GETX (R169). -/
def execGetx (d : Fin 24) (sel : Fin 4) (s : State) : Host.Outcome State Fault Refusal :=
  finish s (done (writeG s d (s.trapReg sel)))

/-- SETTH (R171). -/
def execSetth (r : Fin 24) (s : State) : Host.Outcome State Fault Refusal :=
  finish s (do
    let h ← readG s r
    if bitAt h.toNat 0 then .error (.trap 0x05 h)
    else if 0x40000 ≤ h.toNat then .error (.trap 0x03 h)
    else done (s.modCth (fun t => { t with handler := h })))

/-! ## Signals and failure (R174, R175) -/

/-- The scheduler's answer to GSIGNAL is on its way to the slot's mailbox. -/
def State.signalled (s : State) (d : Fin 24) (x : Dword) : State :=
  { s with posts := s.posts ++ [{ iss := s.issuer, post := { res := [(d, x)], err := none } }] }

/-- GSIGNAL: a release, one token for node g[d] of the thread's graph, behind an event of the graph that has begun, then the scheduler's
answer in the slot's mailbox (R175, R304). A
thread saved while it waits finds the token added (R178, R337). A thread of no node has no graph, and is answered 2: the model's choice
(entry 87). -/
def execGsignal (d : Fin 24) (s : State) : Host.Outcome State Fault Refusal :=
  finish s (match s.cth.posted with
    | some p => takeAnswer s p
    | none =>
      if s.posts.any (fun p => p.iss.uid == s.cth.uid) then .error (.mail s .signal)
      else do
        let n ← readG s d
        s.release
        match s.cth.node.bind (fun nid => s.graphOf (nid / 4096)) with
        | none => .error (.mail (s.signalled d 2) .signal)
        | some (gk, g) =>
          if g.nodes.length ≤ n.toNat then .error (.mail (s.signalled d 2) .signal)
          else if s.graphBusy gk (.engineMailboxPost s.cth.uid) then .error (.wait s .hold)
          else match s.flow (.engineMailboxPost s.cth.uid) (Eng.token gk n.toNat) (some gk) false with
            | .done s ok => .error (.mail (s.signalled d (if ok then 0 else 1)) .signal)
            | .refused s' _ | .waits s' => .error (.wait s' .hold))

/-- GFAIL: a release, then the thread stops and its node faults; the trap registers stay (R174). -/
def execGfail (d : Fin 24) (s : State) : Host.Outcome State Fault Refusal :=
  finish s (do
    let v ← readG s d
    s.release
    .error (.gone (s.stopThread s.cur.core s.cur.slot 0x11 s.cur.pc v)))

/-! ## Segments and checkpoints (R176, R177) -/

/-- SEGNAR (R176). -/
def execSegnar (sg : Fin 8) (r t : Fin 24) (s : State) : Host.Outcome State Fault Refusal :=
  finish s (do
    let off ← readG s r
    let x ← readG s t
    let g := s.cth.sg[sg.val]
    let nl := bits x.toNat 39 0
    if bits x.toNat 59 40 ≠ 0 then .error (.trap 0x03 x)
    else if g.limit.toNat < off.toNat + nl then .error (.trap 0x03 off)
    else if sg = 0 ∧ off ≠ 0 then .error (.trap 0x03 off)
    else
      let g' : Seg := {
        space := g.space, rights := g.rights &&& BitVec.ofNat 4 (bits x.toNat 63 60), limit := BitVec.ofNat 40 nl
        base := BitVec.ofNat 56 (fieldAdd g.space.toNat g.base.toNat off.toNat) }
      done (s.modCth (fun t => { t with sg := vset t.sg sg g' })))

/-- A tenant stop of the partition is pending (R177, R296). -/
def State.stopPending (s : State) (p : Nat) : Bool := s.stops.any (fun x => x.part == p && !x.fired)

/-- CHKPT: parks at a listed checkpoint while a stop is pending (R177). -/
def execChkpt (n : Dword) (s : State) : Host.Outcome State Fault Refusal :=
  finish s (
    let listed : Bool := match s.launchOf s.cth.node with | some l => l.chk.any (fun c => c.number == n.toNat) | none => false
    if ¬ s.stopPending s.ctag ∨ ¬ listed then done s
    else do
      s.release
      if s.engineBusy s.cth.uid then .error (.wait s .drain)
      else done (s.modCth (fun t => { t with ctl := .halted .checkpoint, chk := some n.toNat })))

/-! ## Yield and wake (R178) -/

/-- YIELD: waits for the wake bit, clears it, then acquires (R178). -/
def execYield (s : State) : Host.Outcome State Fault Refusal :=
  finish s (
    if s.cth.wake then (s.modCth (fun t => { t with wake := false })).thenAcquire .sys none .ok
    else .error (.wait s .yield))

/-- WAKE: a release, then a wake to thread g[d] of the same node attempt (R178). -/
def execWake (d : Fin 24) (s : State) : Host.Outcome State Fault Refusal :=
  finish s (do
    let n ← readG s d
    s.release
    let m : WakeMsg := { node := s.cth.node, attempt := s.cth.attempt, tid := n.toNat }
    done { s with wakes := s.wakes ++ [m] })

/-- A wake for a saved context: its bit is set and an image in the cache gets its tag again; it is held for a context in transit, and for
one whose image has left the cache (R82, R178, R324, R337). -/
def State.wakeSaved (s : State) (k key : Nat) (x : Saved) : State :=
  if x.ctx.xstat.tr ∨ x.written then
    s.modClu k (fun c => { c with places := mput key { x with ctx := { x.ctx with heldWake := true } } c.places })
  else s.storePlace k (key % 2 ^ 32) { x with ctx := { x.ctx with wake := true } }

/-- A wake reaches its target: its bit is set, or held for a thread in no slot; a thread that does not exist discards it (R82, R178). So
does one that a thread of no node has sent, as it has no node attempt: the model's choice (entry 87). -/
def State.wakeArrive (s : State) (i : Nat) : Option State :=
  match s.wakes[i]? with
  | none => none
  | some m =>
    let s := { s with wakes := ldel s.wakes i }
    let is (t : Thread) : Bool := t.node.isSome && t.node == m.node && t.attempt == m.attempt && t.tid == m.tid
    let set (t : Thread) : Thread := if is t then { t with wake := true } else t
    let hold (t : Thread) : Thread := if is t then { t with heldWake := true } else t
    let saved := s.clusters.flatMap (fun e => (e.2.places.filter (fun p => is p.2.ctx)).map (fun p => (e.1, p)))
    some (saved.foldl (fun s e => s.wakeSaved e.1 e.2.1 e.2.2) { s with
      cores := s.cores.map (fun e => (e.1, { e.2 with
        slots := e.2.slots.map (fun p => (p.1, set p.2)), arrq := e.2.arrq.map hold }))
      pkts := s.pkts.map (fun p => { p with ctx := hold p.ctx }) })

/-- WAKE_ARRIVAL (R178). -/
def execWakeArrival (i : Nat) (s : State) : Host.Outcome State Fault Refusal := event s (s.wakeArrive i)

end Sys2Proof.Machine
end

