-- ==== Sys2Proof/Machine/GraphI.lean ====
section
/-! DEFINITION. The graph scheduler and the dispatchers: submission, dispatch, placement, image copies, completion, faults, retries,
cancellation (R53 to R58, R70, R71, R294, R300 to R313). -/

namespace Sys2Proof.Machine

/-! ## Submission (R294, R301) -/

/-- A free graph id (R301). -/
def State.newGid (s : State) : Nat :=
  let used (x : Nat) : Bool := s.graphs.any (fun e => e.2.gid == some x)
  match findUp 1025 (fun i => !used ((s.nextGid + i) % 2 ^ 28)) with
  | some i => (s.nextGid + i) % 2 ^ 28
  | none => s.nextGid

/-- The graph a record makes: its children are the places after its own key k0. -/
def GRead.graph (g : GRead) (p k0 : Nat) (all : List GRead) (me : Nat) : Graph :=
  let child (i : Nat) : Option Nat :=
    (List.range all.length).findSome? (fun j => match all[j]? with
      | some x => if x.parent = some (me, i) then some (k0 + j) else none
      | none => none)
  { gid := none, part := p, record := g.addr, nodesA := BitVec.ofNat 64 (bits g.word 319 256)
    mbox := BitVec.ofNat 64 (bits g.word 383 320), flist := BitVec.ofNat 64 (bits g.word 447 384), flcap := bits g.word 63 48
    pw := BitVec.ofNat 64 (bits g.word 511 448)
    nodes := tab g.nodes.length (fun i => match g.nodes[i]? with
      | some n => { n with child := if n.kind = .sub then child i else none }
      | none => { kind := .signal, need := 0, budget := 0, state := .waiting, succ := [], arg := 0 })
    parent := g.parent.map (fun e => (k0 + e.1, e.2)), gstate := 0 }

/-- A graph starts: gstate 1, and its nodes with need 0 become READY in index order (R301). -/
def Eng.startGraph (gk : Nat) : Eng Unit := do
  Eng.setGstate gk 1
  let s ← get
  match mfind gk s.graphs with
  | none => pure ()
  | some g =>
    (List.range g.nodes.length).forM (fun i => do
      match g.nodes[i]? with
      | some n =>
        if n.need = 0 then
          let s ← get
          Eng.setNode gk i (n.ready s)
          modify (fun s => { s with nextUid := s.nextUid + 1 })
      | none => pure ())

/-- A submission read and checked takes its places; the submitted graph gets its id and starts (R301). -/
def Eng.submit (p : Nat) (gs : List GRead) : Eng Nat := do
  let s ← get
  let k0 := s.nextUid
  let gid := s.newGid
  let gr := (List.range gs.length).zip gs
  set { s with
    nextUid := s.nextUid + gs.length, nextGid := (gid + 1) % 2 ^ 28
    graphs := gr.foldl (fun (m : SMap Graph) (e : Nat × GRead) =>
      let g := e.2.graph p k0 gs e.1
      mput (k0 + e.1) (if e.1 = 0 then { g with gid := some gid } else g) m) s.graphs }
  Eng.startGraph k0
  pure gid

/-- A submission: the records are read once and checked, then the graph takes its places, or waits for them; its id, or the code of a
refusal (R300, R301). -/
def Eng.launch (p : Nat) (a : Dword) : Eng Int := do
  let s ← get
  match ← (readSubmission (s.schedReq p (8 * s.cth.uid + 3)) p a).run with
  | .error code => pure code
  | .ok gs => do
    let s ← get
    if Config.graphPlaces < s.graphs.length + gs.length then fun s => .error (.again s .room)
    else do
      let gid ← Eng.submit p gs
      pure gid

/-- GLAUNCH (R294, R300, R301). -/
def glaunchEff (s : State) (d r : Fin 24) : Eff :=
  s.privileged (fun s => do
    let p ← readG s d
    let a ← readG s r
    let answer (s : State) (x : Int) : Eff := done (s.gives d (BitVec.ofInt 64 x))
    if 12 < p.toNat then answer s (-4)
    else Eng.forPriv s (Eng.launch p.toNat a) answer (fun s => answer s (-4)))

/-- GLAUNCH (R294, R301). -/
def execGlaunch (d r : Fin 24) (s : State) : Host.Outcome State Fault Refusal := finish s (glaunchEff s d r)

/-- The first service thread that waits for a graph place. -/
def State.roomWaiter (s : State) : Option (Nat × Nat) :=
  s.cores.findSome? (fun e => if isService e.1 then e.2.slots.findSome? (fun p =>
    if p.2.wait = .poll .room ∧ p.2.ctl = .run then some (e.1, p.1) else none) else none)

/-- GRAPH_ACCEPT: a GLAUNCH that waits for room is served once a place is free (R301). -/
def execGraphAccept (s : State) : Host.Outcome State Fault Refusal :=
  match s.roomWaiter with
  | none => .next s
  | some (c, n) =>
    match s.fetch c n with
    | .run s' (.glaunch d r) => finish s' (glaunchEff s' d r)
    | _ => .next s

/-- The event of a GCANCEL: its walk joins those of the graph, gstate becomes 2 (R304, R311). -/
def Eng.cancel (gk : Nat) (w : Walk) : Eng Unit := do
  modify (fun s => s.modGraph gk (fun g => { g with walks := g.walks ++ [w], cancelled := true }))
  Eng.setGstate gk 2

/-- GCANCEL: the whole graph, or the cone below a node, behind an event of the graph that has begun (R294, R304, R311). -/
def execGcancel (d r : Fin 24) (s : State) : Host.Outcome State Fault Refusal :=
  finish s (s.privileged (fun s => do
    let gid ← readG s d
    let n ← readG s r
    let answer (s : State) (x : Int) : Eff := done (s.gives d (BitVec.ofInt 64 x))
    match s.graphOf gid.toNat with
    | none => answer s (-2)
    | some (gk, g) =>
      let whole := n = BitVec.allOnes 64
      if ¬ whole ∧ g.nodes.length ≤ n.toNat then answer s (-3)
      else
        let w : Walk := if whole then { queue := List.range g.nodes.length, seen := [], whole := true } else { queue := [n.toNat], seen := [] }
        if s.graphBusy gk (.engineMailboxPost s.cth.uid) then .error (.wait s .hold)
        else match s.flow (.engineMailboxPost s.cth.uid) (Eng.cancel gk w) (some gk) false with
          | .done s () | .refused s _ => answer s 0
          | .waits s => .error (.wait s .hold)))

/-! ## Dispatch (R302, R305, R310) -/

/-- A READY node may be dispatched: its graph runs, no walk of it is pending (R310), and it has not been, waiting for its first placement
(R306). -/
def Graph.dispatchable (g : Graph) (n : Node) : Bool := g.gid.isSome && g.walks.isEmpty && n.state == .ready && n.groups.isEmpty

/-- No READY node of the partition that may be dispatched became READY earlier (R304). -/
def State.firstReady (s : State) (p at_ : Nat) : Bool :=
  s.graphs.all (fun e => e.2.part != p || e.2.nodes.all (fun n => !e.2.dispatchable n || decide (at_ ≤ n.readyAt)))

/-- The threads of a launch: the product of its extents but for a software iteration (R55). -/
def launchThreads (l : Launch) : Nat := (l.levels.filter (fun v => v.domain != 5)).foldl (fun n v => n * v.extent) 1

/-- The die chosen for a launch without a partition vector: the lowest that can hold it (R50). -/
def State.chooseDie (s : State) (p : Nat) (l : Launch) : Nat :=
  ((tab 4 (fun d => s.boot.pkg * 4 + d)).find? (fun d => s.fitsEver p d l.levels)).getD (s.boot.pkg * 4)

/-- The copy of a copy node: R216 with no phase word, by no thread (R302). -/
def State.nodeCopy (s : State) (p nid att : Nat) (c : Dword × Dword × Nat) : Copy :=
  let r := s.schedReq p
  { kind := .node nid att, iss := { core := r.core, slot := 0, uid := 0, pc := 0, tag := p }, port := r.port, dst := c.1, src := c.2.1
    issued := s.counter, cnt := c.2.2, pws := [], rows := 1, dstr := 0, sstr := 0, swz := 0 }

/-- The partition vector of a launch names dies of other packages. -/
def State.farLaunch (s : State) (l : Launch) : Bool := l.shares.any (fun x => x.pkg != s.boot.pkg)

/-- Dispatch node i of graph gk: an acquire, then by kind; a node with dies on other packages is RUNNING from its first placement (R302,
R305, R306). -/
def Eng.dispatch (gk i : Nat) (g : Graph) (n : Node) : Eng Unit := do
  modify (fun s => s.invalidate .sys)
  let s ← get
  let n' := { n with state := NState.running, faulted := false, left := [], result := none }
  match n.kind with
  | .kernel =>
    match n.launch with
    | some l => do
      let n' := { n' with groups := launchGroups l (s.chooseDie g.part l), nextTid := launchThreads l }
      if s.farLaunch l ∧ n'.groups ≠ [] then modify (fun s => s.setNode gk i { n' with state := .ready })
      else Eng.setNode gk i n'
    | none => Eng.setNode gk i n'
  | .copy => do
    match n.copy with
    | some c => modify (fun s => { s with copies := s.copies ++ [s.nodeCopy g.part (g.nid i) n.attempt c] })
    | none => pure ()
    Eng.setNode gk i n'
  | .signal => Eng.setNode gk i n'
  | .sub => do
    match n.child with
    | some ck => do
      let gid := s.newGid
      modify (fun s => { s.modGraph ck (fun c => { c with gid := some gid }) with nextGid := (gid + 1) % 2 ^ 28 })
      Eng.startGraph ck
    | none => pure ()
    Eng.setNode gk i n'

/-- NODE_DISPATCH; the store that shows a first placement goes on under its name (R302, R306). -/
def execNodeDispatch (gk i : Nat) (s : State) : Host.Outcome State Fault Refusal :=
  event s (match mfind gk s.graphs with
    | none => none
    | some g => match g.nodes[i]? with
      | none => none
      | some n =>
        if n.state = .running then s.schedule gk (.nodeDispatch gk i) false (Eng.setNode gk i n)
        else s.schedule gk (.nodeDispatch gk i) (g.dispatchable n && s.firstReady g.part n.readyAt) (Eng.dispatch gk i g n))

/-! ## Placing groups (R53 to R57, R70) -/

/-- The groups that wait, as graph key, node, place in the node's list. -/
def State.waiting (s : State) : List (Nat × Nat × Nat) :=
  s.graphs.flatMap (fun e => ((List.range e.2.nodes.length).zip e.2.nodes).flatMap (fun x =>
    (List.range x.2.groups.length).map (fun j => (e.1, x.1, j))))

/-- A core can take the threads of a group now (R53). -/
def State.roomNow (s : State) (nid slots : Nat) (l : Launch) (c : Nat) : Bool :=
  let k := s.core c
  decide (k.slots.length + slots ≤ min 32 k.quota) && !k.conflict nid l

/-- The clusters and cores a group takes now on its die, in the order of cluster and core index (R53, R54). Which of the clusters and cores
that fit it takes is the dispatcher's choice: here the lowest-numbered clusters, and of each the lowest logical cores (entry 70). -/
def State.fitsNow (s : State) (p nid : Nat) (l : Launch) (die : Nat) : Option (List (List Nat)) :=
  let cores := (s.holdings p (die / 4)).filter (fun c => decide (dieOf c = die) && s.roomNow nid (levelExtent l.levels 4) l c)
  let k := levelExtent l.levels 3
  let pick (q : Nat) : Option (List Nat) :=
    let cs := cores.filter (fun c => decide (cluOf c = q))
    if cs.length < k then none
    else if k = 64 then some (tab 64 (fun j => ckey (cluPkg q) (cluIdx q * 64 + j)))
    else some (cs.take k)
  let qs := (dieClusters die).filterMap pick
  let n := levelExtent l.levels 2
  if qs.length < n then none else some (qs.take n)

/-- The index of each level for a thread of a group (R55). -/
def levelIndices (l : Launch) (g : Group) (clu core slot : Nat) : List Nat :=
  if l.levels = [] then [0]
  else l.levels.map (fun v => match v.domain with
    | 2 => clu | 3 => core | 4 => slot | 5 => 0
    | _ => match g.lv with | some x => x.2 | none => 0)

/-- The thread id: the row-major index over the levels but for a software iteration (R55). -/
def levelId (l : Launch) (idx : List Nat) : Nat :=
  (l.levels.zip idx).foldl (fun n e => if e.1.domain = 5 then n else n * e.1.extent + e.2) 0

/-- A dispatched thread; it is the origin of itself and of those that descend from it by SPAWN (R57, R320). -/
def launchThread (l : Launch) (nid att : Nat) (g : Group) (clu core slot : Nat) : Thread :=
  let idx := levelIndices l g clu core slot
  { g := Vector.ofFn (fun i => if i.val < 4 then l.args.getD i.val 0 else 0)
    sg := Vector.ofFn (fun i => l.segs.getD i.val {})
    p := Vector.ofFn (fun i => l.packet.getD i.val 0)
    pc := BitVec.ofNat 64 l.entry, node := some nid, attempt := att, tid := levelId l idx, lvIdx := idx
    lvExt := if l.levels = [] then [1] else l.levels.map (·.extent)
    handler := BitVec.ofNat 64 l.handler, origin := levelId l idx }

/-- Place the threads of a group on its clusters and cores, in lowest-numbered free slots (R54). -/
def State.placeGroup (s : State) (l : Launch) (nid att : Nat) (g : Group) (qs : List (List Nat)) : State :=
  ((List.range qs.length).zip qs).foldl (fun s q =>
    ((List.range q.2.length).zip q.2).foldl (fun s c =>
      (List.range (levelExtent l.levels 4)).foldl (fun s slot =>
        match (s.core c.2).emptySlot with
        | some n => s.placeThread c.2 n (launchThread l nid att g q.1 c.1 slot)
        | none => s) s) s) s

/-- An entry of a segment map as a 128-bit number (R69). -/
def mapEntryOf (x : Nat) : MapEntry :=
  { holders := (List.range 4).filterMap (fun h => let y := bits x (96 + 8 * h + 7) (96 + 8 * h); if bitAt y 7 then some (y % 64) else none)
    length := bits x 82 64, base := bits x 50 32 }

/-- A segment map in the store of cluster k, read and checked: a failed check refuses with the address of its entry, or of the header (R69,
R70). The spec does not say which entry an entry address in no segment names, nor which of two that overlap or share a holder, nor in which
order the checks are made: here the header, the later of the two, and the order of R70's list (entry 71). R70's list says nothing of an
entry whose length is 0 or odd, or whose base is not a multiple of 16: such an entry is taken as it stands. Nor does any rule say where a
map's entries past the end of the cluster store lie: their offset wraps to its start (entry 88). -/
def readMap (p k : Nat) (l : Launch) : Eng (List MapEntry) := do
  let s ← get
  let r := s.schedReq p
  let a := l.segmap
  let at_ (j : Nat) : Dword := raAdd a (16 * j)
  -- the header and the entries lie in the store of this cluster
  let own : Req := { r with core := ckey (cluPkg k) (cluIdx k * 64) }
  let rd (j : Nat) : EngAcc :=
    { r := own, a := BitVec.ofNat 64 (3 * 2 ^ 60 + (raOffset a + 16 * j) % 0x2000000), n := 16, op := .rd, xval := some (at_ j) }
  let h := (← Eng.many [rd 0]).headD 0
  let n := h % 256
  Eng.need (decide (h / 256 = 0 ∧ 1 ≤ n ∧ n ≤ 64)) a
  let xs ← Eng.many ((List.range n).map (fun j => rd (j + 1)))
  let es := xs.map mapEntryOf
  let each (f : Nat → Nat → MapEntry → Bool) : Eng Unit :=
    (List.range n).forM (fun j => Eng.need (f j (xs.getD j 0) (mapEntryOf (xs.getD j 0))) (at_ (j + 1)))
  each (fun _ x _ => decide (bits x 95 83 = 0 ∧ bits x 63 51 = 0 ∧ bits x 31 0 = 0) && (List.range 4).all (fun h =>
    !bitAt x (96 + 8 * h + 6)))
  each (fun _ _ e => decide (l.origin ≤ e.base ∧ e.base + e.length ≤ l.origin + l.imglen))
  each (fun j _ e => (es.take j).all (fun f => !overlaps e.base (e.base + e.length) f.base (f.base + f.length)))
  each (fun _ x _ => let v (h : Nat) : Bool := bitAt x (96 + 8 * h + 7)
    v 0 && (v 1 || !v 2) && (v 2 || !v 3))
  each (fun _ _ e => e.holders.all (fun h => decide (h < levelExtent l.levels 3)))
  each (fun j _ e => (es.take j).all (fun f => !e.holders.any (f.holders.contains ·)))
  Eng.need (es.any (fun e => decide (e.base ≤ l.entry ∧ l.entry < e.base + e.length))) a
  pure es

/-- The travel units of a group's clusters take the map: their own copy, or the one they hold for the attempt (R70). -/
def Eng.takeMaps (p nid att : Nat) (l : Launch) (lv : Option (Nat × Nat)) (qs : List (List Nat)) : Eng Unit := do
  let ms ← qs.mapM (fun cs => do
    let k := cluOf (cs.headD 0)
    let s ← get
    let es ← match (s.clu k).maps.find? (fun m => m.node = nid ∧ m.attempt = att) with
      | some m => pure m.entries
      | none => readMap p k l
    pure (k, ({ node := nid, attempt := att, lv := lv, entries := es, cores := cs } : SegMap)))
  modify (fun s => ms.foldl (fun s e => s.modClu e.1 (fun x => { x with maps := x.maps ++ [e.2] })) s)

/-- Before a group that fits is placed its maps are taken, where the mode asks for them; the address at which a map failed its checks (R70). -/
def Eng.placing (p nid att : Nat) (l : Launch) (lv : Option (Nat × Nat)) (qs : List (List Nat)) : Eng (Except Dword Unit) :=
  if l.travel then Eng.soft (Eng.takeMaps p nid att l lv qs) else pure (.ok ())

/-- A group of node j is placed or has failed its map check: it waits no more, and a node that waited for its first placement is RUNNING,
which its record then shows (R300, R306). -/
def State.placed (s : State) (gk j x : Nat) (n : Node) : State :=
  let n' := { n with groups := ldel n.groups x, state := .running }
  let s := s.setNode gk j n'
  if n.state = .ready then (s.schedule gk (.nodeDispatch gk j) true (Eng.setNode gk j n')).getD s else s

/-- GROUP_PLACE: waiting group i is placed whole if it fits, no earlier group of its node waits on its die and no event of its graph has
begun; a failed map check faults the node (R53, R70, R304). -/
def State.groupStep (s : State) (i : Nat) : Option State :=
  match s.waiting[i]? with
  | none => none
  | some (gk, j, x) =>
    match mfind gk s.graphs with
    | none => none
    | some g => match g.nodes[j]? with
      | none => none
      | some n => match n.launch, n.groups[x]? with
        | some l, some gr =>
          let who : Instr := .groupPlace ((gk * 4096 + j) * 1024 + gr.die)
          if s.graphBusy gk who ∨ (n.groups.take x).any (fun y => y.die == gr.die) then none
          else match s.fitsNow g.part (g.nid j) l gr.die with
            | none => if s.begun who then some (s.dropWaiter who) else none
            | some qs =>
              let nid := g.nid j
              match s.flow who (Eng.placing g.part nid n.attempt l gr.lv qs) (some gk) with
              | .done s (.ok ()) => some ((s.placeGroup l nid n.attempt gr qs).placed gk j x n)
              | .done s (.error v) | .refused s v => some ((s.placed gk j x n).faultNode nid n.attempt 0x0D 0 v none)
              | .waits s => some s
        | _, _ => none

/-- GROUP_PLACE (R53). -/
def execGroupPlace (i : Nat) (s : State) : Host.Outcome State Fault Refusal := event s (s.groupStep i)

/-- The bytes of the image a core receives: all of them, or, in travel mode, those of its own segment and of no segment (R57, R71). R71
speaks of the cores of a group. A core outside it that a SPAWN claims receives, as the model's choice, the bytes of no segment where its
cluster holds the node's map, and the whole image where it does not (entry 88). -/
def imageFor (ms : List SegMap) (c : Nat) (a : Nat) : Bool :=
  ms.isEmpty || ms.any (fun m => match m.segOf a with
    | none => true
    | some (j, _) => (m.localSeg c).any (fun x => x.1 == j))

/-- The memory scope of level i of a launch; a record without levels has one, of scope core (R50). -/
def Launch.scopeOf (l : Launch) (i : Nat) : Nat := ((l.levels[i]?).map (fun v => v.scope)).getD 0

/-- The image with the scope fields of its relocations filled from the launch's levels (R22). -/
def Launch.scoped (l : Launch) (bs : List Byte) : List Byte :=
  (Config.scopeRelocs l.image l.imglen).foldl (fun bs r =>
    if r.1 + 1 < bs.length then
      let w := natLE (putBits (leNat ((bs.drop r.1).take 2)) r.2.1 3 (l.scopeOf r.2.2)) 2
      bs.take r.1 ++ w ++ bs.drop (r.1 + 2)
    else bs) bs

/-- A core store with a node's image placed in it, as far as the core receives it (R22, R57, R71). -/
def State.withImage (s : State) (c nid att : Nat) (l : Launch) (bs : List Byte) : State :=
  let ms := if l.travel then (s.clu (cluOf c)).maps.filter (fun m => m.node == nid && m.attempt == att) else []
  let image := l.scoped bs
  s.modCore c (fun x => { x with
    mem := ((List.range image.length).zip image).foldl (fun mem e =>
      if imageFor ms c (l.origin + e.1) then wrB mem (l.origin + e.1) e.2 else mem) x.mem })

/-- The engine flow of a partition that copies an image to a core; an invalid or malformed page fails it (R57). -/
def State.imageReq (s : State) (c : Nat) : Req :=
  { core := c, port := cluOf c, tag := (s.core c).tag.val, thr := false, kind := 2, unit := cluIdx (cluOf c), uid := 0, id := 8 * c + 5
    hard := true }

/-- IMAGE_COPY: the image of claim i of core c is copied, as an engine flow of the node's partition; a page that is not resident pauses
it, and a failed copy, that of an invalid or malformed page among them, faults the attempt (R57, R71, R348). -/
def State.imageStep (s : State) (c i : Nat) : Option State :=
  match (s.core c).claims[i]? with
  | none => none
  | some k =>
    match s.launchOf (some k.node) with
    | none => none
    | some l =>
      if k.ready ∨ k.failed ∨ k.paused.isSome then none
      else
        let put (s : State) (k : Claim) : State := s.modCore c (fun x => { x with claims := lset x.claims i k })
        let fails (s : State) : State := (put s { k with failed := true }).faultNode k.node k.attempt 0x0D 0 l.image none
        match Eng.run s k.trail k.poison.toList (Eng.rdBuf (s.imageReq c) l.image l.imglen) with
        | .done s bs => some ((put s { k with ready := true, trail := [], poison := none }).withImage c k.node k.attempt l bs)
        | .refused s _ => some (fails s)
        | .more s t | .again s t _ => some (put s { k with trail := t, poison := none })
        | .paused s t key => some (put s { k with trail := t, paused := some key, poison := none })

/-- IMAGE_COPY (R57). -/
def execImageCopy (c i : Nat) (s : State) : Host.Outcome State Fault Refusal := event s (s.imageStep c i)

/-! ## Completion of nodes (R63, R302 to R304) -/

/-- A fault of the attempt is on its way to the scheduler. -/
def State.faultPending (s : State) (nid att : Nat) : Bool := s.nfaults.any (fun f => f.node == nid && f.attempt == att)

/-- Nothing of a node's attempt runs: no thread, no copy, no engine operation of a discarded context. -/
def State.nodeQuiet (s : State) (nid : Nat) (n : Node) : Bool :=
  s.noThreads nid n.attempt && !s.copies.any (fun c => c.kind == .node nid n.attempt) && n.left.all (fun u => !s.engineBusy u)

/-- A RUNNING node has done what it is to do (R302). -/
def State.nodeDone (s : State) (nid : Nat) (n : Node) : Bool :=
  n.state == .running && !n.faulted && !s.faultPending nid n.attempt &&
    (match n.kind with
     | .kernel => n.groups.isEmpty && s.nodeQuiet nid n
     | .copy => s.nodeQuiet nid n
     | .signal => true
     | .sub => n.result == some 1)

/-- Completion of node i: DONE, then a token to each successor in list order (R304). -/
def Eng.complete (gk i : Nat) (n : Node) : Eng Unit := do
  Eng.setNode gk i { n with state := .done }
  modify (fun s => match mfind gk s.graphs with | some g => s.releaseNode (g.nid i) | none => s)
  n.succ.forM (fun y => do
    let _ ← Eng.token gk y
    pure ())

/-- NODE_COMPLETE (R304). -/
def execNodeComplete (gk i : Nat) (s : State) : Host.Outcome State Fault Refusal :=
  event s (match mfind gk s.graphs with
    | none => none
    | some g => match g.nodes[i]? with
      | none => none
      | some n => s.schedule gk (.nodeComplete gk i) (s.nodeDone (g.nid i) n) (Eng.complete gk i n))

/-! ## Faults and retries (R307, R308) -/

/-- The fault fields of a node record (R299). -/
def Eng.putFault (gk : Nat) (g : Graph) (i : Nat) (f : NFault) : Eng Unit := do
  let s ← get
  let r := s.graphReq gk g.part
  let a (x : Nat) : Dword := raAdd g.nodesA (128 * i + x)
  let thr := f.fthr.getD (2 ^ 40 - 1) % 2 ^ 40
  Eng.put r (a 24) 8 f.fxpc.toNat
  Eng.put r (a 32) 8 f.fval.toNat
  Eng.put r (a 40) 8 (thr + f.cause % 256 * 2 ^ 40)

/-- A node is retry-safe (R308). -/
def Node.retrySafe (n : Node) : Bool :=
  match n.kind with
  | .kernel => (match n.launch with | some l => l.retry | none => false)
  | .copy => true
  | _ => false

/-- A RUNNING node faults for the first time in its attempt (R307, R308). -/
def Eng.nodeFault (gk i : Nat) (g : Graph) (n : Node) (f : NFault) : Eng Unit := do
  Eng.putFault gk g i f
  modify (fun s => s.stopAttempt gk i f.node f.attempt)
  let s ← get
  let n := ((mfind gk s.graphs).bind (fun g => g.nodes[i]?)).getD n
  if n.budget ≠ 0 ∧ n.retrySafe then Eng.setNode gk i { n with state := .retrying, faulted := true }
  else
    Eng.setNode gk i { n with state := .faulted, faulted := true }
    modify (fun s => s.modGraph gk (fun g => { g with
      faults := g.faults ++ [i], walks := if n.succ = [] then g.walks else g.walks ++ [{ queue := n.succ, seen := [i] }] }))
    Eng.setGstate gk 2

/-- NODE_FAULT: the fault at place i reaches the scheduler; one of an ended attempt, or after the first, is ignored (R304, R307). -/
def State.faultStep (s : State) (i : Nat) : Option State :=
  match s.nfaults[i]? with
  | none => none
  | some f =>
    if (s.nfaults.take i).any (fun x => x.node / 4096 == f.node / 4096) then none
    else
      let gone (s : State) : State := { s with nfaults := ldel s.nfaults i }
      match s.nodeOf f.node with
      | none => some (gone s)
      | some (gk, j, n) =>
        let who : Instr := .nodeFault (gk * 4096 + j)
        if s.graphBusy gk who then none
        else if n.attempt ≠ f.attempt ∨ n.faulted ∨ n.state ≠ .running then some (gone s)
        else match mfind gk s.graphs with
          | none => some (gone s)
          | some g =>
            match s.flow who (Eng.nodeFault gk j g n f) (some gk) with
            | .done s () => some (gone s)
            | .refused s _ | .waits s => some s

/-- NODE_FAULT (R307). -/
def execNodeFault (i : Nat) (s : State) : Host.Outcome State Fault Refusal := event s (s.faultStep i)

/-- The maps of an attempt of a node are dropped by the travel units. -/
def State.dropMaps (s : State) (p : SegMap → Bool) : State :=
  { s with clusters := s.clusters.map (fun (e : Nat × Cluster) => (e.1, { e.2 with maps := e.2.maps.filter (fun m => !p m) })) }

/-- The next attempt of a node is READY (R308). -/
def Eng.retryNode (gk i : Nat) (g : Graph) (n : Node) : Eng Unit := do
  modify (fun s => s.dropMaps (fun m => m.node == g.nid i))
  let s ← get
  Eng.setNode gk i ({ n with budget := n.budget - 1, attempt := n.attempt + 1, faulted := false, left := [], groups := [] }.ready s)
  modify (fun s => { s with nextUid := s.nextUid + 1 })

/-- NODE_RETRY: the attempt has stopped; the next one is READY (R308). -/
def execNodeRetry (gk i : Nat) (s : State) : Host.Outcome State Fault Refusal :=
  event s (match mfind gk s.graphs with
    | none => none
    | some g => match g.nodes[i]? with
      | none => none
      | some n =>
        s.schedule gk (.nodeRetry gk i) (n.state == .retrying && s.nodeQuiet (g.nid i) n) (Eng.retryNode gk i g n))

/-! ## Cancellation (R309 to R311) -/

/-- A walk of graph gk that reaches a child graph waits until no event of the child is begun (R304, R309). -/
def Eng.untilQuiet (gk ck : Nat) : Eng Unit := fun s => if s.graphBusy ck (.walkStep gk) then .error (.again s .hold) else .ok ((), s)

/-- What a walk does to the node it reaches (R309). -/
def Eng.cancelNode (gk y : Nat) : Eng Unit := do
  let s ← get
  match mfind gk s.graphs with
  | none => pure ()
  | some g => match g.nodes[y]? with
    | none => pure ()
    | some n =>
      match n.state with
      | .waiting | .ready => Eng.setNode gk y { n with state := .cancelled, groups := [] }
      | .running | .retrying => do
        match n.kind, n.child with
        | .sub, some ck => Eng.untilQuiet gk ck
        | _, _ => pure ()
        modify (fun s => s.stopAttempt gk y (g.nid y) n.attempt)
        let s ← get
        let n := ((mfind gk s.graphs).bind (fun g => g.nodes[y]?)).getD n
        Eng.setNode gk y { n with state := .cancelling }
        match n.kind, n.child with
        | .sub, some ck => do
          match mfind ck s.graphs with
          | some c => do
            let w : Walk := { queue := List.range c.nodes.length, seen := [], whole := true }
            modify (fun s => s.modGraph ck (fun c => { c with walks := c.walks ++ [w], cancelled := true }))
            Eng.setGstate ck 2
          | none => pure ()
        | _, _ => pure ()
      | _ => pure ()

/-- One iteration of the first walk of a graph (R309, R310). -/
def Eng.walk (gk : Nat) (g : Graph) : Eng Unit := do
  match g.walks with
  | [] => pure ()
  | w :: ws =>
    match w.queue with
    | [] => modify (fun s => s.modGraph gk (fun g => { g with walks := ws }))
    | y :: q =>
      let skip := w.seen.contains y
      let q := if skip ∨ w.whole then q else q ++ ((g.nodes[y]?).map (·.succ)).getD []
      let w := { w with queue := q, seen := if skip then w.seen else w.seen ++ [y] }
      modify (fun s => s.modGraph gk (fun g => { g with walks := if q = [] then ws else w :: ws }))
      if !skip then Eng.cancelNode gk y

/-- WALK_STEP (R309). -/
def execWalkStep (gk : Nat) (s : State) : Host.Outcome State Fault Refusal :=
  event s (match mfind gk s.graphs with
    | none => none
    | some g => s.schedule gk (.walkStep gk) (g.walks != []) (Eng.walk gk g))

/-- CANCELLING_FINISH: the threads and engine operations of a CANCELLING node have ended (R309). -/
def execCancellingFinish (gk i : Nat) (s : State) : Host.Outcome State Fault Refusal :=
  event s (match mfind gk s.graphs with
    | none => none
    | some g => match g.nodes[i]? with
      | none => none
      | some n =>
        s.schedule gk (.cancellingFinish gk i)
          (n.state == .cancelling && s.nodeQuiet (g.nid i) n && (n.kind != .sub || n.result.isSome))
          (Eng.setNode gk i { n with state := .cancelled }))

/-! ## Completion of graphs (R312, R313) -/

/-- Everything of a graph has ended (R312). -/
def State.graphDone (s : State) (g : Graph) : Bool :=
  match g.gid with
  | none => false
  | some gid =>
    g.nodes.all (fun n => n.state.final && n.left.all (fun u => !s.engineBusy u)) && g.walks.isEmpty &&
      !s.nfaults.any (fun f => f.node / 4096 == gid) &&
      !s.contexts.any (fun t => match t.node with | some n => n / 4096 == gid | none => false) &&
      !s.copies.any (fun c => match c.kind with | .node n _ => n / 4096 == gid | _ => false)

/-- The status of a graph that ends (R313). -/
def Graph.status (g : Graph) : Nat :=
  if g.nodes.all (fun n => n.state == .done) then 1 else if g.nodes.any (fun n => n.state == .faulted) then 2 else 3

/-- The mailbox of a graph that ends (R313). -/
def Graph.mailbox (g : Graph) (cycle : Nat) : Nat :=
  let count (x : NState) : Nat := g.nodes.countP (fun n => n.state == x)
  let nlist := if g.flist = 0 then 0 else min g.flcap g.faults.length
  g.status + count .done % 65536 * 2 ^ 96 + count .faulted % 65536 * 2 ^ 112 + count .cancelled % 65536 * 2 ^ 128 + nlist % 65536 * 2 ^ 144 +
    (g.gid.getD 0) % 2 ^ 32 * 2 ^ 160 + cycle % 2 ^ 64 * 2 ^ 192

/-- A place below a graph whose subgraph never started. -/
def unstarted (m : SMap Graph) (gk : Nat) : Nat → Nat → Bool
  | 0, _ => false
  | n + 1, k =>
    match mfind k m with
    | none => false
    | some g => g.gid.isNone && (match g.parent with
      | some (q, _) => q == gk || unstarted m gk n q
      | none => false)

/-- The stores of a graph's completion, then its places are free and its parent's node has its status (R302, R312). -/
def Eng.endGraph (gk : Nat) (g : Graph) : Eng Unit := do
  let s ← get
  let r := s.graphReq gk g.part
  if g.flist ≠ 0 then
    (List.range (min g.flcap g.faults.length)).forM (fun j => Eng.put r (raAdd g.flist (2 * j)) 2 (g.faults.getD j 0))
  let cycle ← Eng.stamp g.mbox
  Eng.put r g.mbox 32 (g.mailbox cycle)
  Eng.setGstate gk 3
  if g.pw ≠ 0 then
    let _ ← Eng.soft (Eng.phase r g.pw 0 1)
    pure ()
  let gid := g.gid.getD 0
  modify (fun s =>
    let s := { s with graphs := s.graphs.filter (fun e => e.1 != gk && !unstarted s.graphs gk 5 e.1) }
    let s := s.dropMaps (fun m => m.node / 4096 == gid)
    match g.parent with
    | none => s
    | some (pk, i) =>
      match mfind pk s.graphs with
      | none => s
      | some pg => match pg.nodes[i]? with
        | none => s
        | some n =>
          let s := s.setNode pk i { n with result := some g.status }
          if g.status ≠ 1 ∧ n.state = .running then s.faultNode (pg.nid i) n.attempt 0x12 0 (BitVec.ofNat 64 gid) none else s)

/-- GRAPH_COMPLETE (R312). -/
def execGraphComplete (gk : Nat) (s : State) : Host.Outcome State Fault Refusal :=
  event s (match mfind gk s.graphs with
    | none => none
    | some g => s.schedule gk (.graphComplete gk) (s.graphDone g) (Eng.endGraph gk g))

end Sys2Proof.Machine
end

