-- ==== Sys2Proof/Machine/Travel.lean ====
section
/-! DEFINITION. Travelling threads: the far branch, the packet, the choice of a holder, landing, congestion, and threads that must
leave their core (R72 to R88, R163). -/

namespace Sys2Proof.Machine

/-- The holders of an entry, as core keys in map order (R69). -/
def SegMap.holderCores (m : SegMap) (e : MapEntry) : List Nat :=
  e.holders.filterMap (fun h => m.cores[h]?)

/-- Choose(j) for a thread id: the first holder from start with the least advertised depth (R75). -/
def State.choose (s : State) (m : SegMap) (e : MapEntry) (tid : Nat) : Option Nat :=
  let hs := m.holderCores e
  let n := hs.length
  if n = 0 then none
  else
    let order := tab n (fun i => hs.getD ((tid % n + i) % n) 0)
    let depth (c : Nat) : Nat := mget 0 c (s.clu (cluOf c)).adv
    let least := order.foldl (fun d c => min d (depth c)) (depth (order.getD 0 0))
    order.find? (fun c => depth c = least)

/-- The registers a live mask ships: g in bits 0 to 23, v in 24 to 31, k in 32 to 39 (R74). -/
def Thread.shipped (t : Thread) (live : Nat) (trapRegs : Bool) (pc : Dword) : Thread :=
  let x : XStat := if trapRegs then t.xstat else {}
  { t with
    g := Vector.ofFn (fun i => if bitAt live i.val then t.g[i.val] else 0)
    v := Vector.ofFn (fun i => if bitAt live (24 + i.val) then t.v[i.val] else 0)
    k := Vector.ofFn (fun i => if bitAt live (32 + i.val) then t.k[i.val] else 0)
    xcause := if trapRegs then t.xcause else 0
    xval := if trapRegs then t.xval else 0
    xpc := if trapRegs then t.xpc else 0
    xstat := { x with tr := true }
    pc := pc, fbuf := none, wait := .ready, leave := none, gwait := none }

/-- What a departure waits for: accesses, pending registers, engine operations, then a granary place (R73). -/
inductive Depart where
  | wait (s : State) (p : Poll)
  | gone (s : State)

/-- The cluster where the map's group was placed (R68). -/
def SegMap.home (m : SegMap) (c : Nat) : Nat := cluOf (m.cores.getD 0 c)

/-- The thread of a slot departs to a holder of an entry, or waits; ctx is what it carries (R73, R77, R78). -/
def State.depart (s : State) (c n : Nat) (m : SegMap) (e : MapEntry) (ctx : Thread) : Depart :=
  let t := s.thread c n
  let k := m.home c
  let p := (s.core c).tag.val
  if ¬ s.drained t.uid then .wait s .drain
  else if ¬ s.returned t.uid then .wait s .pending
  else if s.engineBusy t.uid then .wait s .drain
  else match s.freePlace k p with
    | none =>
      let since : Option (Nat × Bool) := if t.wait = .poll .granary ∧ t.gwait.isSome then t.gwait else some (s.counter, false)
      .wait (s.modThread c n (fun t => { t with gwait := since })) .granary
    | some place =>
      match s.choose m e t.tid with
      | none => .wait s .granary
      | some h =>
        let s := s.modClu k (fun x => { x with reserved := x.reserved ++ [(p, place, t.uid)] })
        let s := s.modCore c (fun x => { x with slots := mdel n x.slots })
        .gone { s with pkts := s.pkts ++ [{ ctx := ctx, dest := h }] }

/-- The far branch to tgt with a live mask; link names the register CALLF writes (R73, R163). -/
def farBranch (s : State) (link : Option (Fin 24)) (tgt live : Dword) : Eff :=
  let c := s.cur.core
  let t := s.cth
  let linked (s : State) : State := match link with | some d => writeG s d s.nextPc | none => s
  if live.toNat / 2 ^ 40 ≠ 0 then .error (.trap 0x01 (s.baseIllegal 13))
  else if bitAt tgt.toNat 0 then .error (.trap 0x05 tgt)
  else match s.segMap? c t with
    | none => .ok (linked s, some tgt)
    | some m =>
      match m.segOf tgt.toNat with
      | none => .error (.trap 0x0A tgt)
      | some (j, e) =>
        if s.localId c t j then .ok (linked s, some tgt)
        else
          let mask := live.toNat ||| (match link with | some d => 2 ^ d.val | none => 0)
          if ¬ (s.drained t.uid ∧ s.returned t.uid) ∨ s.engineBusy t.uid then .error (.wait s .drain)
          else do
            observeAll t.deferred
            match s.depart c s.cur.slot m e ((linked s).cth.shipped mask false tgt) with
            | .wait s p => .error (.wait s p)
            | .gone s => .error (.gone s)

/-- BRF (R163). -/
def execBrf (r t : Fin 24) (s : State) : Host.Outcome State Fault Refusal :=
  finish s (do
    let tgt ← readG s r
    let live ← readG s t
    farBranch s none tgt live)

/-- CALLF (R163). -/
def execCallf (d r t : Fin 24) (s : State) : Host.Outcome State Fault Refusal :=
  finish s (do
    let tgt ← readG s r
    let live ← readG s t
    farBranch s (some d) tgt live)

/-- Every register of g, v and k. -/
def liveAll : Nat := 2 ^ 40 - 1

/-- A context is in transit no more: the messages held for it are taken in the order halt, stop, wake (R82, R178). -/
def Thread.unheld (t : Thread) : Thread :=
  { t with
    xstat := { t.xstat with tr := false }
    ctl := if t.heldHalt ∧ t.ctl = .run then .haltReq .debug else t.ctl
    wake := t.wake || t.heldWake, heldHalt := false, heldWake := false, leave := none }

/-- A thread that was to leave its core does not: it is no longer in transit. -/
def State.stays (s : State) (c n : Nat) : State := s.modThread c n Thread.unheld

/-- A thread that must leave its core does so before it issues: with g0 to g3 at its start, with every register else; the trap
registers go along into and out of a handler (R85, R86, R88). It raises segment escape where no segment holds its address. -/
def State.leaveStep (s : State) (c n : Nat) (l : Leave) : State :=
  let t := s.thread c n
  match s.segMap? c t with
  | none => s.stays c n
  | some m =>
    match m.segOf t.pc.toNat with
    | none => (s.stays c n).takeTrap c n 0x0A t.pc t.pc t.pc (s.groupLen c n) false
    | some (j, e) =>
      if s.localId c t j then s.stays c n
      else
        let live := match l with | .start => 15 | .trap => liveAll | .moved => liveAll
        match s.depart c n m e (t.shipped live (l == .trap) t.pc) with
        | .wait s p => s.modThread c n (fun t => { t with wait := .poll p })
        | .gone s => s

/-! ## Landing (R77, R82, R83) -/

/-- A slot of the core is free within the quota: the lowest-numbered (R60, R77). -/
def Core.freeSlot (k : Core) : Option Nat :=
  if k.quota ≤ k.slots.length then none else findUp 32 (fun n => (mfind n k.slots).isNone)

/-- A context as it lands: out of transit, with its held messages taken in the order halt, stop, wake; it issues once the node's image is
in place (R29, R74, R82). -/
def Thread.landed (t : Thread) (ready : Bool) : Thread :=
  { t.unheld with fbuf := none, wait := if ready then .ready else .starting }

/-- A context lands in a slot of a core; where the node's claim there has been released it is taken anew, and the image is copied before the
thread issues (R29, R57, R62, R77). The spec does not say what becomes of a claim, queue or link that another node's threads hold there by
then: here the context lands all the same, takes its claim and binds its queues and links (entry 88). -/
def State.land (s : State) (c n : Nat) (t : Thread) : State :=
  let s := s.takeClaim c t
  s.setThread c n (t.landed (s.imageReady c t))

/-- The reserved place of a thread is returned. -/
def Cluster.unreserve (x : Cluster) (uid : Nat) : Cluster := { x with reserved := x.reserved.filter (fun e => e.2.2 != uid) }

/-- A travel-mode core still holds the segment of an address for the thread's node. -/
def State.holds (s : State) (c : Nat) (t : Thread) : Bool :=
  match s.segMap? c t with
  | none => true
  | some m => (m.localSeg c).any (fun x => decide (x.2.base ≤ t.pc.toNat) && decide (t.pc.toNat < x.2.base + x.2.length))

/-- Another holder for a context whose destination TRAVREPL removed (R88). -/
def State.rechoose (s : State) (c : Nat) (t : Thread) : Option Nat :=
  match s.segMap? c t with
  | none => none
  | some m => match m.segOf t.pc.toNat with
    | none => none
    | some (_, e) => s.choose m e t.tid

/-- A granary context is tagged for a core (R77). -/
def State.taggedFor (s : State) (c : Nat) : List (Nat × Saved) :=
  (s.clu (cluOf c)).places.filter (fun e => e.2.kind == 3 && e.2.core == c)

/-- The place a thread in transit holds in a granary: its reserved one, or a free one. -/
def State.placeOf (s : State) (c uid : Nat) : Option (Nat × Nat) :=
  let k := cluOf c
  let p := (s.core c).tag.val
  match (s.clu k).reserved.find? (fun e => e.2.2 == uid) with
  | some (p, n, _) => some (p, n)
  | none => (s.freePlace k p).map (fun n => (p, n))

/-- A packet arrives: a slot, the arrival queue, or its granary place; or it is redirected (R77, R88). Where the cache is full and no image
can leave it, the granary's page being absent, the spec does not say where the packet waits: here it stays on its way and the page is
requested (entry 88). -/
def State.arrive (s : State) (i : Nat) : Option State :=
  match s.pkts[i]? with
  | none => none
  | some q =>
    let c := q.dest
    let x := s.core c
    let k := cluOf c
    let s' := { s with pkts := ldel s.pkts i }
    if ¬ s.holds c q.ctx then
      (match s.rechoose c q.ctx with
       | some h => some { s with pkts := lset s.pkts i { q with dest := h } }
       | none => none)
    else match (if x.arrq.isEmpty && (s.taggedFor c).isEmpty then x.freeSlot else none) with
      | some n => some ((s'.land c n q.ctx).modClu k (fun y => y.unreserve q.ctx.uid))
      | none =>
        if x.arrq.length < 16 ∧ (s.taggedFor c).isEmpty then
          some ((s'.modCore c (fun y => { y with arrq := y.arrq ++ [q.ctx] })).modClu k (fun y => y.unreserve q.ctx.uid))
        else match s.placeOf c q.ctx.uid with
          | some (p, n) =>
            let v : Saved := {
              ctx := q.ctx, core := c, slot := 0, set := 0, part := p, kind := 3, sealed := true, written := false, age := s.counter }
            if s.mayStore k n v then some ((s'.modClu k (fun y => y.unreserve q.ctx.uid)).storePlace k n v)
            else some (s.askRoom k n v)
          | none => none

/-- TRAVEL_ARRIVAL (R77). -/
def execTravelArrival (i : Nat) (s : State) : Host.Outcome State Fault Refusal := event s (s.arrive i)

/-- The first context of core c's arrival queue that is to be redirected and can be: its place in the queue, the holder that is to have it,
the granary place it reserves again, as at a departure (R77, R88, entry 39). -/
def State.redirected (s : State) (c : Nat) : Option (Nat × Thread × Nat × Nat × Nat) :=
  let q := (s.core c).arrq
  ((List.range q.length).zip q).findSome? (fun e =>
    if s.holds c e.2 then none
    else match s.rechoose c e.2, s.placeOf c e.2.uid with
      | some h, some (p, n) => some (e.1, e.2, h, p, n)
      | _, _ => none)

/-- ARRIVAL_QUEUE_LAND: a context of core c's arrival queue whose core has lost its segment is redirected, wherever it stands in the queue,
or stays there until a granary place is free for it, so that it never waits in the network; else the head lands in a freed slot (R77, R79,
R88, entry 39). -/
def execArrivalQueueLand (c : Nat) (s : State) : Host.Outcome State Fault Refusal :=
  event s (match s.redirected c with
    | some (i, t, h, p, n) =>
      let s' := (s.modCore c (fun y => { y with arrq := ldel y.arrq i })).modClu (cluOf c) (fun y => { y with
        reserved := y.reserved.filter (fun r => r.2.2 != t.uid) ++ [(p, n, t.uid)] })
      some { s' with pkts := s'.pkts ++ [{ ctx := t, dest := h }] }
    | none => match (s.core c).arrq with
      | t :: ts =>
        if s.holds c t then (s.core c).freeSlot.map (fun n => (s.modCore c (fun y => { y with arrq := ts })).land c n t) else none
      | [] => none)

/-- The oldest granary context tagged for a core. -/
def State.oldestFor (s : State) (c : Nat) : Option (Nat × Saved) :=
  let l := s.taggedFor c
  let age := l.foldl (fun a e => min a e.2.age) s.counter
  l.find? (fun e => e.2.age == age)

/-- A granary context tagged for core c whose core has lost its segment, and the holder that is to have it (R88). -/
def State.redirectedPlace (s : State) (c : Nat) : Option (Nat × Saved × Nat) :=
  (s.taggedFor c).findSome? (fun e => if s.holds c e.2.ctx then none else (s.rechoose c e.2.ctx).map (fun h => (e.1, e.2, h)))

/-- GRANARY_TO_ARRIVAL_QUEUE: a granary context tagged for core c whose core has lost its segment is redirected; else the oldest one enters
its arrival queue (R77, R88). -/
def execGranaryToArrivalQueue (c : Nat) (s : State) : Host.Outcome State Fault Refusal :=
  event s (
    let freed (key : Nat) : State := s.freePlaceAt (cluOf c) (key / 2 ^ 32) (key % 2 ^ 32)
    match s.redirectedPlace c with
    | some (key, v, h) =>
      let s' := (freed key).modClu (cluOf c) (fun y => { y with reserved := y.reserved ++ [(v.part, key % 2 ^ 32, v.ctx.uid)] })
      some { s' with pkts := s'.pkts ++ [{ ctx := v.ctx, dest := h }] }
    | none => match s.oldestFor c with
      | some (key, v) =>
        if s.holds c v.ctx ∧ (s.core c).arrq.length < 16 then
          some ((freed key).modCore c (fun y => { y with arrq := y.arrq ++ [v.ctx] }))
        else none
      | none => none)

/-- TRAVEL_CONGESTION: one notice for each granary wait of 65,536 cycles (R78, R288). -/
def execTravelCongestion (c n : Nat) (s : State) : Host.Outcome State Fault Refusal :=
  event s (match s.thread? c n with
    | none => none
    | some t => (match t.wait, t.gwait with
      | .poll .granary, some (since, false) =>
        if since + 65536 ≤ s.counter then
          some ((s.modThread c n (fun t => { t with gwait := some (since, true) })).postRec 1 (s.core c).tag.val
            (cluIdx (cluOf c) * 2 ^ 40 + t.tid % 2 ^ 40))
        else none
      | _, _ => none))

/-- A core holds a segment of some node's map: it advertises (R76, R88). -/
def State.holder (s : State) (c : Nat) : Bool := (s.clu (cluOf c)).maps.any (fun m => (m.localSeg c).isSome)

/-- HOLDER_ADVERTISE: a holder's arrival-queue depth reaches its cluster's travel unit (R76); a core that TRAVREPL removed advertises no
more (R88). -/
def execHolderAdvertise (c : Nat) (s : State) : Host.Outcome State Fault Refusal :=
  event s (if s.holder c then some (s.modClu (cluOf c) (fun x => { x with adv := mset 0 c (s.core c).arrq.length x.adv })) else none)

end Sys2Proof.Machine
end

