-- ==== Sys2Proof/Machine/CoreImage.lean ====
section
/-! DEFINITION. The save set of a partition: what of a core FLUSHTK saves, the core image, a saved context's checks, and the restore of
a core (R296, R325, R330 to R333). -/

namespace Sys2Proof.Machine

/-! ## What is saved (R330) -/

/-- Insert a range of core store, start and length, and merge it with those it meets. -/
def addRange (l : List (Nat × Nat)) (r : Nat × Nat) : List (Nat × Nat) :=
  if r.2 = 0 then l
  else
    let meets (x : Nat × Nat) : Bool := decide (x.1 ≤ r.1 + r.2) && decide (r.1 ≤ x.1 + x.2)
    let m := l.filter meets
    let lo := m.foldl (fun a x => min a x.1) r.1
    let hi := m.foldl (fun a x => max a (x.1 + x.2)) (r.1 + r.2)
    (l.filter (fun x => !meets x && decide (x.1 < lo))) ++ [(lo, hi - lo)] ++ (l.filter (fun x => !meets x && decide (lo < x.1)))

/-- The ranges a parked thread's checkpoint names, its window at its own slot (R327). -/
def chkRanges (l : Launch) (chk slot : Nat) : List (Nat × Nat) :=
  match l.chk.find? (fun c => c.number == chk) with
  | none => []
  | some c => c.ranges.map (fun r => (if r.w then 0x40000 + 0x2000 * slot + r.start else r.start, r.len))

/-- A thread is parked at a checkpoint. -/
def Thread.parkedAt (t : Thread) : Option Nat :=
  match t.ctl, t.chk with
  | .halted .checkpoint, some n => some n
  | _, _ => none

/-- The contexts in flight to a core (R330, R332). -/
def State.inFlight (s : State) (c : Nat) : List Thread := (s.pkts.filter (fun q => q.dest == c)).map (fun q => q.ctx)

/-- Contexts on their way to a core: queued at it, tagged for it in the granary, or in flight to it (R330, R332). -/
def State.arrivals (s : State) (c : Nat) : List Thread :=
  (s.core c).arrq ++ (s.taggedFor c).map (fun e => e.2.ctx) ++ s.inFlight c

/-- What of a core's store is saved: no image, or whole or in ranges (R330). -/
def State.saveRanges (s : State) (c : Nat) : Option (Bool × List (Nat × Nat)) :=
  let x := s.core c
  if x.slots.isEmpty ∧ (s.arrivals c).isEmpty ∧ x.claims.isEmpty then none
  else if !x.slots.isEmpty && x.slots.all (fun e => e.2.parkedAt.isSome) && (s.arrivals c).isEmpty && decide (x.claims.length ≤ 22) then
    some (false, x.slots.foldl (fun l e =>
      match e.2.parkedAt, s.launchOf e.2.node with
      | some n, some la => (chkRanges la n e.1).foldl addRange l
      | _, _ => l) [])
  else some (true, [(0, 0x80000)])

/-! ## The core image (R331) -/

/-- A list cut or filled with zeros to n bytes. -/
def padTo (n : Nat) (l : List Byte) : List Byte := (l ++ List.replicate (n - l.length) 0).take n

def wordBytes (l : List Dword) : List Byte := l.flatMap (fun w => natLE w.toNat 8)

/-- The full/empty bits of a core store. -/
def fullBytes (full : List Nat) : List Byte :=
  tab 8192 (fun i => BitVec.ofNat 8 (sumUp 8 (fun j => if full.contains (8 * i + j) then 2 ^ j else 0)))

/-- The bytes of a core image after its tag. -/
def coreImage (c p : Nat) (x : Core) (whole : Bool) (rs : List (Nat × Nat)) : List Byte :=
  let data := rs.flatMap (fun r => padTo (roundUp r.2 16) (rdBytes x.mem r.1 r.2))
  let head := roundUp (12296 + 8 * rs.length) 16
  natLE (idxOf c + p * 4096 + b2n whole * 65536) 8 ++ natLE (head + data.length) 8 ++ List.replicate 16 0 ++
    x.q.toList.flatMap (fun q => padTo 128 (wordBytes q.ent)) ++
    x.lk.toList.flatMap (fun l => padTo 64 (wordBytes (l.ent ++ l.fly))) ++
    x.q.toList.map (fun q => BitVec.ofNat 8 q.ent.length) ++ x.lk.toList.map (fun l => BitVec.ofNat 8 (l.ent ++ l.fly).length) ++
    natLE (min 22 x.claims.length) 8 ++
    padTo 176 ((x.claims.take 22).flatMap (fun k => natLE (k.node / 4096 % 2 ^ 32 + k.node % 4096 * 2 ^ 32) 8)) ++
    x.mx.acc.toList.flatMap (fun a => wordBytes (tab 64 (fun i => mget 0 i a.c))) ++
    padTo 64 (x.mx.acc.toList.map (fun a => BitVec.ofNat 8 a.tag.val)) ++
    wordBytes x.mx.shadow.toList ++ natLE x.mx.unf.toNat 32 ++ natLE x.mx.mask.toNat 64 ++ List.replicate 800 0 ++
    fullBytes x.full ++ natLE rs.length 8 ++
    padTo (head - 12296) (rs.flatMap (fun r => natLE (r.2 * 2 ^ 24 + r.1) 8)) ++ data

/-- The tag of a core image (R331). -/
def State.coreTag (s : State) (p : Nat) (body : List Byte) : List Byte := kmac256 (Config.contextKey s.resets p) body customCore 32

/-- Words of 8 bytes at an offset of an image. -/
def imgWords (b : List Byte) (off n : Nat) : List Dword :=
  tab n (fun i => BitVec.ofNat 64 (leNat ((b.drop (off + 8 * i)).take 8)))

/-- The ranges of an image (start, length) and the offset of the first one's bytes. -/
def imgRanges (b : List Byte) : List (Nat × Nat) × Nat :=
  let n := leNat ((b.drop 12288).take 8)
  ((imgWords b 12296 n).map (fun w => (bits w.toNat 18 0, bits w.toNat 43 24)), roundUp (12296 + 8 * n) 16)

/-- Write the ranges of an image into a store. -/
def putRanges (b : List Byte) : List (Nat × Nat) → Nat → Memory → Memory
  | [], _, m => m
  | r :: rs, off, m => putRanges b rs (off + roundUp r.2 16) (wrBytes m r.1 ((b.drop off).take r.2))

/-- A core with the queues, links, matrix-unit state and full/empty bits of an image b, its tag included, and the saved ranges
(R333). -/
def restoreCore (b : List Byte) (x : Core) : Core :=
  let cnt (i : Nat) : Nat := (b.getD (832 + i) 0).toNat
  let rs := imgRanges b
  { x with
    mem := putRanges b rs.1 rs.2 x.mem
    full := (List.range 65536).filter (fun i => bitAt (b.getD (4096 + i / 8) 0).toNat (i % 8))
    q := Vector.ofFn (fun i => { x.q[i.val] with ent := imgWords b (64 + 128 * i.val) (cnt i.val) })
    lk := Vector.ofFn (fun i => { x.lk[i.val] with ent := imgWords b (576 + 64 * i.val) (cnt (4 + i.val)), fly := [] })
    mx := { x.mx with
      acc := Vector.ofFn (fun i => {
        c := ((List.range 64).zip (imgWords b (1024 + 512 * i.val) 64)).foldl (fun m e => mset 0 e.1 e.2 m) []
        tag := Fin.ofNat 3 (b.getD (3072 + i.val) 0).toNat })
      shadow := Vector.ofFn (fun i => (imgWords b 3136 8).getD i.val 0)
      unf := BitVec.ofNat 256 (leNat ((b.drop 3200).take 32))
      mask := BitVec.ofNat 512 (leNat ((b.drop 3232).take 64)) } }

/-- The nodes an image's claims name. -/
def imgClaims (b : List Byte) : List Nat :=
  (imgWords b 848 (leNat ((b.drop 840).take 8))).map (fun w => bits w.toNat 31 0 * 4096 + bits w.toNat 47 32)

/-! ## A saved context's checks (R322, R324, R325) -/

/-- What a restore finds of a context: not resident, lost, or its image. -/
inductive Found where
  | absent
  /-- with its descriptor, where it can be read -/
  | lost (d : Option Nat)
  | image (b : List Byte)

/-- The reserved bits of a descriptor are zero (R9, R322). -/
def descClean (d : Nat) : Bool := decide (bits d 151 128 = 0 ∧ bits d 63 12 = 0 ∧ bits d 7 6 = 0)

/-- Read and check the context of a place. A descriptor with a reserved bit set is a record that cannot be restored: the context is lost
(R9, R325, entry 72). -/
def Eng.readContext (k n : Nat) (x : Saved) : Eng Found := do
  match ← Eng.soft (Eng.getDesc k x.part n) with
  | .error _ => pure (.lost none)
  | .ok d =>
    if ¬ bitAt d 0 ∨ bits d 2 1 = 0 then pure .absent
    else if bitAt d 3 ∨ ¬ descClean d then pure (.lost (some d))
    else do
      let s ← get
      let img : Except Dword (List Byte) ←
        (if x.written then Eng.soft (Eng.rdBuf (granReq k) (globRa (s.imageVa k x.part n)) 1024) else pure (.ok (imageBytes x.ctx)))
      match img with
      | .error _ => pure (.lost (some d))
      | .ok b => if natLE (d / 2 ^ 256) 32 = s.imageTag x.part b d then pure (.image b) else pure (.lost (some d))

/-- Bits [63:0] of a descriptor with the lost bit set; where it cannot be read, those of the device's own record (R322, R325). -/
def lostWord (x : Saved) (d : Option Nat) : Nat := ((d.getD (descLow x true true)) ||| 8) % 2 ^ 64

/-- A context is lost: the lost bit of its descriptor d is set and its node faults (R325). -/
def Eng.loseContext (k n : Nat) (x : Saved) (d : Option Nat) : Eng Unit := do
  let s ← get
  let _ ← Eng.soft (Eng.wrN (granReq k) (globRa (s.descVa k x.part n)) 8 (lostWord x d))
  modify (fun s => match x.ctx.node with
    | some nid => s.faultNode nid x.ctx.attempt 0x0E 0 (globRa (s.imageVa k x.part n)) (some x.ctx.tid)
    | none => s)

/-- A restored context as it stands in a slot: it runs, parked at nothing, its fetch buffer empty (R295, R333). -/
def restoredThread (x : Saved) (b : List Byte) (ready : Bool) : Thread :=
  let t := restoreImage x.ctx b
  { t with
    wake := t.wake || x.ctx.wake || (x.ctx.heldWake && !t.xstat.tr), heldWake := x.ctx.heldWake && t.xstat.tr
    chk := none, ctl := .run, fbuf := none, gwait := none
    wait := if ready then .ready else .starting }

/-- A restored context takes its slot; an answer that was stored with it is delivered to the slot's mailbox (R48, R292, R295). -/
def State.loadThread (s : State) (c n : Nat) (t : Thread) : State :=
  let ws : List Dword := match t.sysc, t.posted with
    | .answered w0 w1, _ => [w0, w1]
    | _, some p => if p.box then p.res.map (fun (e : Fin 24 × Dword) => e.2) else []
    | _, none => []
  (s.setThread c n t).modCore c (fun k => k.post n ws)

/-! ## Saving one core (R332) -/

/-- The save-set id of a partition (R332). -/
def setId (p : Nat) : Dword := BitVec.ofNat 64 (2 ^ 63 + p)

/-- Where the next core image of a cluster goes in the core-save area: its address and the bytes left (R331). -/
def State.saveArea (s : State) (k p : Nat) (set : SaveSet) : Nat × Nat :=
  let w := (mget 0 p (s.clu k).csave).toNat
  let base := bits w 63 16 * 65536
  let size := bits w 15 0 * 65536
  let used := (set.cores.filter (fun e => cluOf e.1 == k && decide (base ≤ e.2.1) && decide (e.2.1 < base + size))).foldl
    (fun a e => max a (roundUp (e.2.1 + e.2.2 - base) 4096)) 0
  (base + used, size - used)

/-- Free places of a partition's granary region. -/
def State.granRoom (s : State) (k p : Nat) : Nat :=
  s.granSize k p - ((s.clu k).places.countP (fun e => decide (e.1 / 2 ^ 32 = p)) +
    (s.clu k).reserved.countP (fun e => decide (e.1 = p)))

/-- Save a context in a place as kind 2. -/
def State.saveKind2 (s : State) (c slot p : Nat) (t : Thread) : State × Nat :=
  let k := cluOf c
  let s := s.modClu k (fun x => x.unreserve t.uid)
  let n := (s.freePlace k p).getD 0
  let v : Saved := {
    ctx := { t with fbuf := none, ctl := .run, gwait := none }
    core := c, slot := slot, set := setId p, part := p, kind := 2, sealed := true, written := false, age := s.counter }
  (s.storePlace k n v, placeKey p n)

/-- The contexts of a core are saved, its slots, claims, queues and links are freed; the keys of the places and the state. -/
def State.saveContexts (s : State) (c p : Nat) : State × List Nat :=
  let x := s.core c
  let go (a : State × List Nat) (e : Nat × Thread) : State × List Nat :=
    let r := a.1.saveKind2 c e.1 p e.2
    (r.1, a.2 ++ [r.2])
  let tagged := s.taggedFor c
  let moving := x.arrq ++ s.inFlight c
  let r := (x.slots ++ moving.map (fun t => (0, t))).foldl go (s, [])
  -- contexts that already have a place
  let s := tagged.foldl (fun (s : State) e =>
    s.storePlace (cluOf c) (e.1 % 2 ^ 32) { e.2 with kind := 2, set := setId p, slot := 0 }) r.1
  let s := { s with pkts := s.pkts.filter (fun q => q.dest != c) }
  (s.modCore c (fun y => { y with
    slots := [], arrq := [], claims := [], q := Vector.replicate 4 {}, lk := Vector.replicate 4 {} }), r.2 ++ tagged.map (fun e => e.1))

/-- Places that the contexts of a core take in its cluster's granary: one each, and of the partition's region one for each that has none
reserved there (R77, R332). -/
def State.placesFor (s : State) (c : Nat) : Nat × Nat :=
  let x := s.core c
  let n := x.slots.length + x.arrq.length
  let held (t : Thread) : Bool := (s.clu (cluOf c)).reserved.any (fun r => r.2.2 == t.uid)
  (n + (s.inFlight c).length, n + (s.inFlight c).countP (fun t => !held t))

/-- Save core c of partition p into its set; false where the area, the region or a write gives out (R332). -/
def Eng.saveCore (c p : Nat) : Eng Bool := do
  let s ← get
  let k := cluOf c
  let set := mget {} p s.sets
  let x := s.core c
  if s.granRoom k p < (s.placesFor c).2 then pure false
  else do
  Eng.roomFor k (s.placesFor c).1 257
  let s ← get
  match s.saveRanges c with
    | none => pure true
    | some (whole, rs) => do
      let (va, room) := s.saveArea k p set
      let body := coreImage c p x whole rs
      let len := 32 + body.length
      if room < len then pure false
      else match ← Eng.soft (Eng.wrBuf (granReq k) (globRa va) (s.coreTag p body ++ body)) with
        | .error _ => pure false
        | .ok () => do
          modify (fun s =>
            let (s, keys) := s.saveContexts c p
            let set' : SaveSet := { cores := set.cores ++ [(c, va, len)], ctxs := set.ctxs ++ keys.map (fun key => (k, key)) }
            { s with sets := mput p set' s.sets })
          pure true

/-- Save cores in order until one does not fit: the number of contexts saved, and whether all are (R332). -/
def Eng.saveCores (p : Nat) : List Nat → Nat → Eng (Nat × Bool)
  | [], n => pure (n, true)
  | c :: cs, n => do
    let before ← get
    if ← Eng.saveCore c p then do
      let after ← get
      Eng.saveCores p cs (n + ((mget {} p after.sets).ctxs.length - (mget {} p before.sets).ctxs.length))
    else pure (n, false)

/-! ## Restoring a set (R333) -/

/-- The context of an entry of a set, if it has not been discarded. -/
def State.setContext (s : State) (p : Nat) (e : Nat × Nat) : Option Saved :=
  match mfind e.2 (s.clu e.1).places with
  | some x => if x.kind = 2 ∧ x.set = setId p then some x else none
  | none => none

/-- The claims of a restored core: those of nodes that still run; a range save copies each node's image again (R333, R57). -/
def Eng.restoreClaim (c : Nat) (copy ready : Bool) (nid : Nat) : Eng Unit := do
  let s ← get
  match s.nodeOf nid with
  | none => pure ()
  | some (_, _, n) =>
    match n.launch with
    | none => pure ()
    | some l =>
      if n.state ≠ .running then pure ()
      else do
        modify (fun s => s.modCore c (fun x => x.take nid n.attempt l))
        let setClaim (f : Claim → Claim) : Eng Unit := modify (fun s => s.modCore c (fun x => { x with
          claims := x.claims.map (fun k => if k.node = nid ∧ k.attempt = n.attempt then f k else k) }))
        if copy then do
          match ← Eng.soft (Eng.rdBuf (s.imageReq c) l.image l.imglen) with
          | .ok bs => do
            modify (fun s => s.withImage c nid n.attempt l bs)
            setClaim (fun k => { k with ready := true })
          | .error _ => do
            setClaim (fun k => { k with failed := true })
            modify (fun s => s.faultNode nid n.attempt 0x0D 0 l.image none)
        else setClaim (fun k => { k with ready := ready })

/-- Restore one core of a set from its image; true where the image is good (R333). -/
def Eng.restoreOne (p : Nat) (ctxs : List Saved) (e : Nat × Nat × Nat) : Eng Bool := do
  let (c, va, len) := e
  let img ← Eng.soft (Eng.rdBuf (granReq (cluOf c)) (globRa va) len)
  let s ← get
  let good : Option (List Byte) := match img with
    | .ok b => if b.take 32 = s.coreTag p (b.drop 32) then some b else none
    | .error _ => none
  modify (fun s => s.modCore c (fun x => { x with mem := [], full := [] }))
  match good with
  | none => pure false
  | some b => do
    let whole := bitAt (leNat ((b.drop 32).take 8)) 16
    (imgClaims b).forM (fun nid =>
      let starting := ctxs.any (fun x => x.core == c && x.ctx.node == some nid && x.ctx.wait == .starting)
      Eng.restoreClaim c (!whole) (!starting) nid)
    modify (fun s => s.modCore c (restoreCore b))
    pure true

/-- Load one context of a set: into its slot, or on its way to its core; true where it was not lost (R325, R333). -/
def Eng.restoreContext (p : Nat) (bad : List Nat) (e : Nat × Nat) : Eng Bool := do
  let s ← get
  match s.setContext p e with
  | none => pure true
  | some x => do
    let k := e.1
    let n := e.2 % 2 ^ 32
    let f ← (if bad.contains x.core then do
        match ← Eng.soft (Eng.getDesc k x.part n) with
        | .ok d => pure (Found.lost (some d))
        | .error _ => pure (Found.lost none)
      else Eng.readContext k n x)
    match f with
    | .image b => do
      let t := restoredThread x b (x.ctx.wait != .starting)
      modify (fun s =>
        let s := s.freePlaceAt k p n
        if t.xstat.tr then
          { s.modClu k (fun y => { y with reserved := y.reserved ++ [(p, n, t.uid)] }) with pkts := s.pkts ++ [{ ctx := t, dest := x.core }] }
        else s.loadThread x.core x.slot t)
      pure true
    | .absent => pure false
    | .lost d => do
      Eng.loseContext k n x d
      pure false

/-- The flush token: the partition's packets on their way go into the routers' save buffers (R332). -/
def State.sweep (s : State) (p : Nat) : State :=
  let wake (m : WakeMsg) : Bool := match m.node.bind (fun nid => s.graphOf (nid / 4096)) with
    | some (_, g) => g.part == p
    | none => false
  let cmd (r : RCmd) : Bool := r.op.iss.tag == p
  let b := mget {} p s.rsave
  { s with
    wakes := s.wakes.filter (fun m => !wake m), rcmds := s.rcmds.filter (fun r => !cmd r)
    rsave := mset {} p { wakes := b.wakes ++ s.wakes.filter wake, rcmds := b.rcmds ++ s.rcmds.filter cmd } s.rsave }

/-- The routers put the packets of their save buffers for a partition on their way again, in buffered order (R333). -/
def State.reinject (s : State) (p : Nat) : State :=
  let b := mget {} p s.rsave
  { s with wakes := s.wakes ++ b.wakes, rcmds := s.rcmds ++ b.rcmds, rsave := mdel p s.rsave }

/-- A context of a set is not resident: the service has moved its image away (R323). -/
def Eng.absentContext (p : Nat) (e : Nat × Nat) : Eng Bool := do
  let s ← get
  match s.setContext p e with
  | none => pure false
  | some _ => do
    match ← Eng.soft (Eng.getDesc e.1 p (e.2 % 2 ^ 32)) with
    | .ok d => pure (!bitAt d 0)
    | .error _ => pure false

/-- Restore a whole set: 0, or −3 where a context was lost. One that holds a context SLOTLD does not find, its resident bit being 0, is
refused with −2 and stays as it is (R323, R333, entry 85). -/
def Eng.restoreSet (p : Nat) (set : SaveSet) : Eng Int := do
  let away ← set.ctxs.mapM (Eng.absentContext p)
  if away.any id then pure (-2)
  else do
  let s ← get
  let ctxs := set.ctxs.filterMap (s.setContext p)
  let good ← set.cores.mapM (Eng.restoreOne p ctxs)
  let bad := ((set.cores.zip good).filter (fun e => !e.2)).map (fun e => e.1.1)
  modify (fun s => s.reinject p)
  let ok ← set.ctxs.mapM (Eng.restoreContext p bad)
  modify (fun s => { s with
    sets := mdel p s.sets
    stops := s.stops.filter (fun x => x.part != p)
    cores := s.cores.map (fun (e : Nat × Core) => if e.2.tag.val = p then (e.1, { e.2 with
      halted := false, stoppend := false
      slots := e.2.slots.map (fun q => (q.1, if q.2.ctl = .halted .tenant then { q.2 with ctl := .run } else q.2)) }) else e) })
  pure (if ok.all id then 0 else -3)

end Sys2Proof.Machine
end

