-- ==== Sys2Proof/Machine/Matrix.lean ====
section
/-! DEFINITION. The matrix unit's work: operand pairs, tiles, headers, steps, microprograms, the unfolding unit and the masked score
store (R226 to R242, R127, R128). -/

namespace Sys2Proof.Machine

/-! ## Formats (R226) -/

/-- The pair of two format codes: elements per step, accumulator tag, bytes per step of A and of B. -/
def mxPair (a b : Nat) : Option (Nat × Fin 3 × Nat × Nat) :=
  if a = 0 ∧ b = 0 then some (1, 0, 8, 8)
  else if a = 1 ∧ b = 1 then some (4, 1, 16, 16)
  else if (a = 2 ∧ b = 2) ∨ (a = 3 ∧ b = 3) then some (16, 1, 32, 32)
  else if (a = 4 ∨ a = 5) ∧ (b = 4 ∨ b = 5) then some (32, 1, 32, 32)
  else if a = 13 ∧ b = 13 then some (64, 1, 32, 32)
  else if a = 9 ∧ b = 9 then some (32, 2, 32, 32)
  else if a = 14 ∧ b = 9 then some (64, 2, 16, 64)
  else none

/-- The same under a microprogram word (R241). -/
def mxProgPair (w a b : Nat) : Option (Nat × Fin 3 × Nat × Nat) :=
  match bits w 53 52 with
  | 0 => if a = 0 ∧ b = 0 then some (1, 0, 8, 8) else none
  | 1 => if a = 1 ∧ b = 1 then some (1, 1, 4, 4) else none
  | 2 => if a = 7 ∧ b = 7 then some (1, 2, 4, 4) else none
  | _ => none

/-- A format with block scales. -/
def mxScaled (f : Nat) : Bool := f == 4 || f == 5 || f == 13

/-- Blocks of 32 elements a step of a scaled format uses (R230). -/
def mxBlocks (f : Nat) : Nat := if f = 13 then 2 else 1

/-! ## Microprograms (R241) -/

/-- Op j of a microprogram word. -/
def mxOpBits (w j : Nat) : Nat := bits w (12 * j + 11) (12 * j)

/-- A word MXPROG accepts. -/
def mxProgOk (w : Nat) : Bool :=
  let n := bits w 50 48
  w == 0 ||
    (decide (1 ≤ n ∧ n ≤ 4 ∧ bits w 53 52 < 3 ∧ bits w 63 54 = 0 ∧ bits w 51 51 = 0) &&
     (List.range 4).all (fun j =>
       let o := mxOpBits w j
       if n ≤ j then o == 0
       else decide (bits o 11 11 = 0 ∧ bits o 10 9 < 3 ∧ bits o 8 6 < 6 ∧ bits o 5 3 < 6 ∧ bits o 2 0 < 6)))

/-- The three cells of a microprogram: acc, t0, t1. -/
structure MxCell where
  acc : Nat
  t0  : Nat
  t1  : Nat
  fl  : Fl
  deriving DecidableEq, Repr

/-- One operation of a microprogram in its type (R241). -/
def mxAlu (tag : Fin 3) (m : RMode) (o x y t1 : Nat) : Nat × Fl :=
  if tag = 2 then
    let a := toSigned 32 x
    let b := toSigned 32 y
    let sel := if bitAt t1 31 then b else a
    (ofSigned 32 (match o with
      | 0 => a + b | 1 => a - b | 2 => a * b | 3 => min a b | 4 => max a b | _ => sel), 0)
  else
    let t : Ty := if tag = 0 then .f64 else .f32
    match o with
    | 0 => opAdd t m x y
    | 1 => opSub t m x y
    | 2 => opMul t m x y
    | 3 => opMinMax false true t x y
    | 4 => opMinMax true true t x y
    | _ => (if bitAt t1 ((floatFmt t).w - 1) then y else x, 0)

/-- One step of a microprogram on an entry (R241). -/
def mxProgStep (w : Nat) (tag : Fin 3) (m : RMode) (acc a b : Nat) : Nat × Fl :=
  let r := (List.range (bits w 50 48)).foldl (fun (c : MxCell) j =>
    let o := mxOpBits w j
    let src (k : Nat) : Nat := match k with | 0 => a | 1 => b | 2 => c.acc | 3 => c.t0 | 4 => c.t1 | _ => 0
    let v := mxAlu tag m (bits o 2 0) (src (bits o 5 3)) (src (bits o 8 6)) c.t1
    match bits o 10 9 with
    | 0 => { c with acc := v.1, fl := c.fl ||| v.2 }
    | 1 => { c with t0 := v.1, fl := c.fl ||| v.2 }
    | _ => { c with t1 := v.1, fl := c.fl ||| v.2 }) (⟨acc, 0, 0, 0⟩ : MxCell)
  (r.acc, r.fl)

/-! ## Elements and steps (R127, R128, R230) -/

/-- Element k of a line's bytes of a step: a floating format, with the step's scale bytes. -/
def mxElemF (f x k sc : Nat) : Fp × Fl :=
  let s := sc / 2 ^ (8 * (k / 32)) % 256
  match f with
  | 0 => (decodeF .f64 (x / 2 ^ (64 * k) % 2 ^ 64), 0)
  | 1 => (decodeF .f32 (x / 2 ^ (32 * k) % 2 ^ 32), 0)
  | 2 => (decodeF .f16 (x / 2 ^ (16 * k) % 2 ^ 16), 0)
  | 3 => (decodeF .bf16 (x / 2 ^ (16 * k) % 2 ^ 16), 0)
  | 4 => narrowElem .e4m3 (x / 2 ^ (8 * k) % 256) s (0, false)
  | 5 => narrowElem .e5m2 (x / 2 ^ (8 * k) % 256) s (0, false)
  | _ => narrowElem .q4x 0 s (q4xElem (x / 2 ^ (128 * (k / 32)) % 2 ^ 128) (k % 32))

/-- Element k of a line's bytes of a step: an i8, or the weight of a trit. -/
def mxElemI (f x k : Nat) : Int × Fl :=
  if f = 14 then
    let r := triWeight (x / 2 ^ (8 * (k / 5)) % 256) (k % 5)
    (r.1, flagIf r.2 fNF)
  else (toSigned 8 (x / 2 ^ (8 * k) % 256), 0)

/-- acc plus the products, formed exactly and rounded once, with the special cases of R128. -/
def mxSumF (t : Ty) (m : RMode) (acc : Nat) (a b : List Fp) : Nat × Fl :=
  let x := decodeF t acc
  let ps := (a.zip b).map (fun e => fpMul e.1 e.2)
  let vs := x :: ps.map (fun p => p.1)
  let both := vs.any (fun v => v == .inf false) && vs.any (fun v => v == .inf true)
  let fl := ps.foldl (fun f p => f ||| p.2) (sigFlags [x]) ||| flagIf both fNV
  if both || vs.any Fp.isNan then (nanF t, fl)
  else match vs.find? Fp.isInf with
    | some v => (infF t v.neg?, fl)
    | none =>
      let r := roundTo t m false ((ps.map (fun p => p.1)).foldl (fun s p => (fpAdd m s p).1) x)
      (r.1, fl ||| r.2)

/-- acc plus the products modulo 2^32. -/
def mxSumI (acc : Nat) (a b : List Int) : Nat :=
  ofSigned 32 ((acc : Int) + ((a.zip b).map (fun e => e.1 * e.2)).foldl (· + ·) 0)

/-! ## Jobs -/

/-- The store of an operation (R240). -/
structure MxOut where
  /-- the words that give the address, the type and the stride: what a refusal names (R233) -/
  addrW  : Dword
  typeW  : Dword
  strideW : Dword
  addr   : Nat
  stride : Nat
  otype  : Nat
  rnd    : Nat
  mask   : Bool
  q0     : Nat
  k0     : Nat
  deriving DecidableEq, Repr

/-- A multiply operation as R235 runs it. -/
structure MxJob where
  acc    : Fin 4
  zero   : Bool
  steps  : Nat
  ta     : Nat
  za     : Nat
  tb     : Nat
  zb     : Nat
  virt   : Bool
  pixel  : Nat
  f3     : Dword
  astr   : Nat
  bstr   : Nat
  prog   : Nat
  pw     : Dword
  out    : Option MxOut
  /-- a word whose reserved bits are set -/
  bad    : Option Dword
  /-- an MMA: with no step and no zero flag it leaves the tag (R237) -/
  direct : Bool
  deriving DecidableEq, Repr

/-- The bits of shadow field n that R231 lists. -/
def mxListed (n : Nat) : Nat :=
  match n with
  | 0 => 0x80FFFFFFFF77FFFF
  | 1 => 0x77FFFF
  | 2 => 0xFFFFFFFF0007
  | 3 => 0x3FFFFFFFFF07FF
  | 4 => 0xFFFFFFFFFFFFF
  | 5 => 0x3FFFFFFFFFFFFF
  | 6 => 0xFFFFFFFF07FFFFFF
  | _ => 0xFFFFFFFFFFFFFFFF

/-- A word has a bit outside a mask. -/
def unlisted (x : Dword) (mask : Nat) : Bool := decide (x.toNat ||| mask ≠ mask)

/-- The job of MXGO from a snapshot (R235). -/
def mxGoJob (f : Vector Dword 8) : MxJob :=
  let w (n : Nat) : Nat := (f.toList.getD n 0).toNat
  let virt := bitAt (w 0) 63
  let bad := ((List.range 8).find? (fun n => unlisted (f.toList.getD n 0) (mxListed n))).map (fun n => f.toList.getD n 0)
  { acc := Fin.ofNat 4 (bits (w 2) 1 0), zero := bitAt (w 2) 2, steps := bits (w 2) 47 16
    ta := bits (w 0) 18 0, za := bits (w 0) 22 20, tb := bits (w 1) 18 0, zb := bits (w 1) 22 20
    virt := virt, pixel := bits (w 0) 55 24, f3 := f[3], astr := bits (w 4) 31 16, bstr := bits (w 4) 47 32
    prog := w 5, pw := f[7]
    out := if bits (w 6) 18 0 = 0 then none else some {
      addrW := BitVec.ofNat 64 (bits (w 6) 18 0), typeW := f[6], strideW := f[4]
      addr := bits (w 6) 18 0, stride := bits (w 4) 15 0, otype := bits (w 6) 23 20, rnd := bits (w 6) 26 24
      mask := bitAt (w 6) 19, q0 := bits (w 4) 51 48, k0 := bits (w 6) 63 32 }
    bad := match bad with
      | some x => some x
      | none => if bits (w 6) 26 24 = 5 ∨ bits (w 6) 26 24 = 6 then some f[6]
          else if ¬ virt ∧ bits (w 0) 55 24 ≠ 0 then some f[0] else none
    direct := false }

/-- The job of MMA from its flags and what its thread supplied: the A and B words, the phase word, the packet registers (R237). -/
def mmaJob (acc : Fin 4) (z : Bool) (fmt : Option Ty) (count : Dword) (args p : List Dword) : MxJob :=
  let wa := args.getD 0 0
  let wb := args.getD 1 0
  let p1 := (p.getD 1 0).toNat
  let p2 := (p.getD 2 0).toNat
  let f3 : Dword := match fmt with
    | some t =>
      let c := encTy t
      BitVec.ofNat 64 (c + c * 16 + 7 * 256 + bits p1 18 0 * 2 ^ 16 + bits p2 18 0 * 2 ^ 35)
    | none => p.getD 0 0
  { acc := acc, zero := z, steps := count.toNat
    ta := bits wa.toNat 18 0, za := bits wa.toNat 22 20, tb := bits wb.toNat 18 0, zb := bits wb.toNat 22 20
    virt := false, pixel := 0, f3 := f3, astr := bits p1 63 48, bstr := bits p2 63 48, prog := 0, pw := args.getD 2 0
    out := none
    bad := if unlisted wa (mxListed 1) then some wa else if unlisted wb (mxListed 1) then some wb
      else if unlisted f3 (mxListed 3) then some f3 else none
    direct := true }

/-! ## Accesses of the unit's own core store -/

/-- A core-store address as the value of XVAL. -/
def coreVal (a : Nat) : Dword := BitVec.ofNat 64 a

/-- The address of a byte of the unit's core store. -/
def coreRa (a : Nat) : Dword := BitVec.ofNat 64 (2 ^ 60 + a % 0x80000)

/-- An access of n bytes of the unit's core store; a failure names its address (R233). -/
def coreAcc (r : Req) (a n : Nat) (op : POp) : EngAcc := { r, a := coreRa a, n, op, xval := some (coreVal a) }

/-- One such access; outside the store the operation is refused (R235). -/
def Eng.store (r : Req) (a n : Nat) (op : POp) : Eng Nat := do
  Eng.need (decide (a + n ≤ 0x80000)) (coreVal a)
  pure ((← Eng.many [coreAcc r a n op]).headD 0)

/-- The header check of R236: columns and rows. -/
def mxHeader (r : Req) (t z fmt steps bps : Nat) : Eng (Nat × Nat) := do
  Eng.need (t % 16 == 0) (coreVal t)
  let h ← Eng.store r t 8 .rd
  let cols := bits h 47 36
  let rows := bits h 35 32
  let check := Nat.xor (Nat.xor (t % 65536) (t / 65536)) (z * 256)
  let used := (16 * cols) * (rows - 1) + steps * bps
  Eng.need (decide (bits h 31 11 = 0 ∧ bits h 7 4 = 0 ∧ (bits h 3 0 = 15 ∨ bits h 3 0 = fmt) ∧ bits h 10 8 = z ∧
    bits h 63 48 = check ∧ 1 ≤ rows ∧ rows ≤ 8 ∧ (z = 0 ∨ cols % 8 = 0) ∧ steps * bps ≤ 16 * cols)) (coreVal t)
  Eng.need (decide (t + 16 + used ≤ 0x80000)) (coreVal t)
  pure (cols, rows)

/-- What one line of an operand is read from in one step: addresses with their bytes and the bit of the line at which they go; the bytes of
its scales (R229, R230, R242). -/
structure MxLine where
  units : List (Nat × Nat × Nat)
  scale : List (Nat × Nat)
  deriving DecidableEq, Repr

/-- The units of step s of line i of a tile, unswizzled (R229). -/
def mxLineUnits (t cols z i bps s : Nat) : List (Nat × Nat × Nat) :=
  let w := min bps 16
  tab (bps / w) (fun j => (t + 16 + i * 16 * cols + Nat.xor (s * bps + w * j) (i * z % 8 * 16), w, 8 * w * j))

/-- The scale bytes of step s of line i (R230). -/
def mxScaleUnits (base stride f i s : Nat) : List (Nat × Nat) :=
  if mxScaled f then [(base + i * stride + s * mxBlocks f, mxBlocks f)] else []

/-- An unfolding descriptor (R242). -/
structure Unfold where
  base : Nat
  fmt  : Nat
  kh   : Nat
  kw   : Nat
  sh   : Nat
  sw   : Nat
  ph   : Nat
  pw   : Nat
  h    : Nat
  w    : Nat
  c    : Nat
  deriving DecidableEq, Repr

def unfoldOf (x : BitVec 256) : Unfold :=
  let b (hi lo : Nat) : Nat := bits x.toNat (8 * hi + 7) (8 * lo)
  { base := b 3 0, fmt := b 4 4, kh := b 5 5, kw := b 6 6, sh := b 7 7 % 16, sw := b 7 7 / 16, ph := b 8 8 % 16, pw := b 8 8 / 16
    h := b 13 12, w := b 15 14, c := b 17 16 }

/-- What MXUNF refuses: a reserved byte that is not zero, or a size of 0 (R242). -/
def unfoldOk (x : BitVec 256) : Bool :=
  let u := unfoldOf x
  let b (hi lo : Nat) : Nat := bits x.toNat (8 * hi + 7) (8 * lo)
  decide (u.base < 0x80000 ∧ b 11 9 = 0 ∧ b 31 18 = 0) &&
    decide (u.kh ≠ 0 ∧ u.kw ≠ 0 ∧ u.sh ≠ 0 ∧ u.sw ≠ 0 ∧ u.h ≠ 0 ∧ u.w ≠ 0 ∧ u.c ≠ 0)

/-- Output positions along an axis: ⌊(n + 2p − k) / s⌋ + 1, none where that is negative. -/
def unfoldOut (n p k s : Nat) : Nat := ((((n + 2 * p : Nat) : Int) - k).fdiv s + 1).toNat

/-- The address of element e of line i of a virtual A; none where it reads zero (R242). -/
def unfoldElem (u : Unfold) (esz pixel i e : Nat) : Option Nat :=
  let ow := unfoldOut u.w u.pw u.kw u.sw
  let oh := unfoldOut u.h u.ph u.kh u.sh
  let p := pixel + i
  if u.kh * u.kw * u.c ≤ e ∨ oh * ow ≤ p then none
  else
    let y : Int := ((p / ow * u.sh : Nat) : Int) - u.ph + ((e / (u.kw * u.c) : Nat) : Int)
    let x : Int := ((p % ow * u.sw : Nat) : Int) - u.pw + ((e / u.c % u.kw : Nat) : Int)
    if y < 0 ∨ x < 0 ∨ (u.h : Int) ≤ y ∨ (u.w : Int) ≤ x then none
    else some (u.base + ((y.toNat * u.w + x.toNat) * u.c + e % u.c) * esz)

/-- The elements that step s of line i of a virtual A reads. -/
def unfoldUnits (u : Unfold) (pixel k bps i s : Nat) : List (Nat × Nat × Nat) :=
  let esz := bps / k
  (List.range k).filterMap (fun j => (unfoldElem u esz pixel i (s * k + j)).map (fun a => (a, esz, 8 * esz * j)))

/-! ## The steps of an operation -/

/-- How A's lines are formed. -/
inductive MxSide where
  | tile (t cols rows z : Nat)
  | unfold (u : Unfold) (pixel : Nat)
  deriving DecidableEq, Repr

/-- The lines of one operand in step s; none for a line at or beyond rows (R228). -/
def mxSideStep (side : MxSide) (f k bps scl sstr s : Nat) : List (Option MxLine) :=
  tab 8 (fun i => match side with
    | .tile t cols rows z =>
      if rows ≤ i then none else some { units := mxLineUnits t cols z i bps s, scale := mxScaleUnits scl sstr f i s }
    | .unfold u pixel => some { units := unfoldUnits u pixel k bps i s, scale := [] })

/-- The reads of a line, data and scales. -/
def MxLine.reads (l : MxLine) : List (Nat × Nat) := l.units.map (fun u => (u.1, u.2.1)) ++ l.scale

/-- The bytes and the scales of lines whose reads have answered, and the answers that are left. -/
def mxFill : List (Option MxLine) → List Nat → List (Option (Nat × Nat)) × List Nat
  | [], vs => ([], vs)
  | none :: ls, vs => let r := mxFill ls vs; (none :: r.1, r.2)
  | some l :: ls, vs =>
    let n := l.units.length
    let x := (l.units.zip vs).foldl (fun x e => x + e.2 * 2 ^ e.1.2.2) 0
    let r := mxFill ls (vs.drop (n + l.scale.length))
    (some (x, if l.scale = [] then 0 else vs.getD n 0) :: r.1, r.2)

/-- One step on the 64 entries (R127, R241). -/
def mxStep (prog : Nat) (fa fb k : Nat) (tag : Fin 3) (m : RMode) (c : List Nat) (a b : List (Option (Nat × Nat))) : List Nat × Fl :=
  let lineF (f : Nat) (l : Option (Nat × Nat)) : List (Fp × Fl) := match l with
    | some (x, sc) => tab k (fun e => mxElemF f x e sc)
    | none => List.replicate k (.fin false 0 0, 0)
  let lineI (f : Nat) (l : Option (Nat × Nat)) : List (Int × Fl) := match l with
    | some (x, _) => tab k (fun e => mxElemI f x e)
    | none => List.replicate k (0, 0)
  let flagsOf {α : Type} (ls : List (List (α × Fl))) : Fl := ls.foldl (fun f l => l.foldl (fun f e => f ||| e.2) f) 0
  if prog ≠ 0 then
    let raw (l : Option (Nat × Nat)) : Nat := match l with | some (x, _) => x | none => 0
    let rs := tab 64 (fun n => mxProgStep prog tag m (c.getD n 0) (raw (a.getD (n / 8) none)) (raw (b.getD (n % 8) none)))
    (rs.map (fun r => r.1), rs.foldl (fun f r => f ||| r.2) 0)
  else if tag = 2 then
    let la := a.map (lineI fa)
    let lb := b.map (lineI fb)
    (tab 64 (fun n => mxSumI (c.getD n 0) ((la.getD (n / 8) []).map (fun e => e.1)) ((lb.getD (n % 8) []).map (fun e => e.1))),
      flagsOf la ||| flagsOf lb)
  else
    let la := a.map (lineF fa)
    let lb := b.map (lineF fb)
    let t : Ty := if tag = 0 then .f64 else .f32
    let rs := tab 64 (fun n =>
      mxSumF t m (c.getD n 0) ((la.getD (n / 8) []).map (fun e => e.1)) ((lb.getD (n % 8) []).map (fun e => e.1)))
    (rs.map (fun r => r.1), rs.foldl (fun f r => f ||| r.2) (flagsOf la ||| flagsOf lb))

/-- The lines of A and of B in each step of an operation. -/
def mxLines (j : MxJob) (fa fb k ab bb : Nat) (sa sb : MxSide) : List (List (Option MxLine) × List (Option MxLine)) :=
  tab j.steps (fun s => (mxSideStep sa fa k ab (bits j.f3.toNat 34 16) j.astr s, mxSideStep sb fb k bb (bits j.f3.toNat 53 35) j.bstr s))

/-- The steps in increasing order, on what their lines have answered: the entries and the flags. -/
def mxSteps (j : MxJob) (fa fb k : Nat) (tag : Fin 3) (m : RMode) :
    List (List (Option MxLine) × List (Option MxLine)) → List Nat → List Nat → Fl → List Nat × Fl
  | [], _, c, fl => (c, fl)
  | l :: ls, vs, c, fl =>
    let a := mxFill l.1 vs
    let b := mxFill l.2 a.2
    let x := mxStep j.prog fa fb k tag m c a.1 b.1
    mxSteps j fa fb k tag m ls b.2 x.1 (fl ||| x.2)

/-! ## The store (R239, R240) -/

/-- Bytes of an output type. -/
def mxOutSize (t : Nat) : Option Nat :=
  match t with | 0 => some 8 | 1 => some 4 | 2 => some 2 | 3 => some 2 | 4 => some 1 | 5 => some 1 | 7 => some 4 | 9 => some 1 | _ => none

/-- What R235 and R240 refuse of a store before any access: the offending address or field value (R233). -/
def MxOut.refusal (o : MxOut) : Option Dword :=
  match mxOutSize o.otype with
  | none => some o.typeW
  | some e =>
    if o.mask && (o.otype == 4 || o.otype == 7 || o.otype == 9) then some o.typeW
    else if o.addr % e ≠ 0 then some o.addrW
    else if o.stride % e ≠ 0 then some o.strideW
    else if 0x80000 < o.addr + 7 * o.stride + 8 * e then some o.addrW
    else none

/-- The type of a code that a store accepts. -/
def mxOutTy (t : Nat) : Ty := match t with | 0 => .f64 | 1 => .f32 | 2 => .f16 | 3 => .bf16 | 4 => .e4m3 | _ => .e5m2

/-- Convert of R240: an entry read by its tag, stored as a type. -/
def mxConvert (tag : Fin 3) (t : Nat) (m : RMode) (sat8 : Bool) (x : Nat) : Nat × Fl :=
  if tag = 2 then
    let v := toSigned 32 x
    if t = 7 then (x % 2 ^ 32, 0)
    else if t = 9 then
      let c := max (-128) (min 127 v)
      (ofSigned 8 c, flagIf (c != v) fSAT)
    else roundTo (mxOutTy t) m sat8 (intToFp v)
  else
    let v := decodeF (if tag = 0 then .f64 else .f32) x
    if t = 7 then fpToInt true 32 m v
    else if t = 9 then fpToInt true 8 m v
    else roundTo (mxOutTy t) m sat8 v

/-- An entry that the mask block hides: query q, key k (R239, R240). -/
def mxHidden (blk : BitVec 512) (q k : Nat) : Bool :=
  let p := bits blk.toNat 31 0
  let r := bits blk.toNat 39 32
  let anc := bits blk.toNat (256 + 16 * q + 15) (256 + 16 * q)
  decide (r ≤ q) || decide (p + r ≤ k) || (decide (p ≤ k) && !bitAt anc (k - p))

/-- Store the 64 entries. -/
def mxStore (r : Req) (o : MxOut) (m : RMode) (sat8 : Bool) (blk : BitVec 512) (tag : Fin 3) (c : List Nat) : Eng Fl := do
  let e := (mxOutSize o.otype).getD 8
  let place (n : Nat) : Nat := o.addr + n / 8 * o.stride + n % 8 * e
  let vs := tab 64 (fun n =>
    if o.mask && mxHidden blk (o.q0 + n / 8) (o.k0 + n % 8) then (infF (mxOutTy o.otype) true, 0)
    else mxConvert tag o.otype m sat8 (c.getD n 0))
  let _ ← Eng.many (((List.range 64).zip vs).map (fun x => coreAcc r (place x.1) e (.wr x.2.1 (fullMask e))))
  pure (vs.foldl (fun f v => f ||| v.2) 0)

/-! ## A whole operation -/

/-- The entries of an accumulator as numbers. -/
def Acc.list (a : Acc) : List Nat := tab 64 (fun n => (mget 0 n a.c).toNat)

/-- An accumulator of 64 entries. -/
def accOf (c : List Nat) (tag : Fin 3) : Acc :=
  { c := (List.range 64).foldl (fun m n => mset 0 n (BitVec.ofNat 64 (c.getD n 0)) m) [], tag := tag }

/-- The rounding mode of a field code: 7 takes the mode captured at issue; 5 and 6 have none (R127). -/
def mxMode (rm : RMode) (c : Nat) : Option RMode := if c = 7 then some rm else rmOf c

/-- The operation of R235: the accumulator it leaves, and its flags. Without a step and without zero no entry is written. A rounding code of
5 or 6 in the format field is refused, as R235's program says; R123's table calls it an illegal instruction, but the unit meets the field
when no instruction is issued (entry 73). -/
def mxRunJob (r : Req) (op : MxOp) (j : MxJob) (unf : BitVec 256) (blk : BitVec 512) (old : Acc) : Eng (Acc × Fl) := do
  let fa := bits j.f3.toNat 3 0
  let fb := bits j.f3.toNat 7 4
  let pair := if j.prog ≠ 0 then mxProgPair j.prog fa fb else mxPair fa fb
  let (k, tag, ab, bb) := pair.getD (1, 0, 0, 0)
  let u := unfoldOf unf
  let sa ← if j.virt then do
      Eng.need (u.fmt == fa && (fa ≤ 3 || fa == 9)) j.f3
      pure (MxSide.unfold u j.pixel)
    else do
      let (cols, rows) ← mxHeader r j.ta j.za fa j.steps ab
      pure (MxSide.tile j.ta cols rows j.za)
  let (cols, rows) ← mxHeader r j.tb j.zb fb j.steps bb
  let sb := MxSide.tile j.tb cols rows j.zb
  Eng.need (pair.isSome && (j.prog == 0 || mxProgOk j.prog)) j.f3
  match mxMode op.rm (bits j.f3.toNat 10 8) with
  | none => Eng.refuse j.f3
  | some m => do
    Eng.refuseIf j.bad
    match j.out with
    | some o => do
      Eng.refuseIf o.refusal
      Eng.need (mxMode op.rm o.rnd).isSome o.typeW
    | none => pure ()
    Eng.need (j.pw == 0 || phaseAddrOk j.pw) j.pw
    let start := if j.zero then List.replicate 64 0
      else if tag = 0 then old.list else old.list.map (fun x => x % 2 ^ 32)
    let lines := mxLines j fa fb k ab bb sa sb
    let reads := lines.flatMap (fun l => (l.1 ++ l.2).flatMap (fun x => match x with | some x => x.reads | none => []))
    Eng.refuseIf ((reads.find? (fun x => decide (0x80000 < x.1 + x.2))).map (fun x => coreVal x.1))
    let vs ← Eng.many (reads.map (fun x => coreAcc r x.1 x.2 .rd))
    let (c, fl) := mxSteps j fa fb k tag m lines vs start 0
    let keep := j.direct && !j.zero && j.steps == 0
    let fl' ← match j.out with
      | some o => mxStore r o ((mxMode op.rm o.rnd).getD .rne) op.sat8 blk tag c
      | none => pure 0
    pure (if keep then old else if j.steps = 0 ∧ ¬ j.zero then { old with tag := tag } else accOf c tag, fl ||| fl')

/-- The store instruction's parameters (R240). -/
def mxstcOut (args : List Dword) (msk : Bool) (tt : Ty) (rm : Option RMode) : MxOut :=
  let p := (args.getD 1 0).toNat
  { addrW := args.getD 0 0, typeW := args.getD 1 0, strideW := args.getD 1 0
    addr := (args.getD 0 0).toNat, stride := bits p 18 0, otype := encTy tt
    rnd := match rm with | some m => rmCode m | none => 7
    mask := msk, q0 := bits p 23 20, k0 := bits p 63 32 }

/-- A compute operation on its unit: the accumulator it writes, its value after, and its flags. -/
def mxCompute (r : Req) (op : MxOp) (accs : Vector Acc 4) : Eng (Fin 4 × Acc × Fl × Dword) :=
  let blk := match op.snap with | some (_, _, b) => b | none => 0
  match op.ins with
  | .mxgo => do
    let (f, unf, blk) := op.snap.getD (Vector.replicate 8 0, 0, 0)
    let j := mxGoJob f
    let (a, fl) ← mxRunJob r op j unf blk accs[j.acc.val]
    pure (j.acc, a, fl, j.pw)
  | .mma acc z fmt _ _ _ count => do
    let j := mmaJob acc z fmt count op.args op.p
    let (a, fl) ← mxRunJob r op j 0 0 accs[acc.val]
    pure (acc, a, fl, j.pw)
  | .mxldc acc tag _ => do
    let a := (op.args.getD 0 0).toNat
    Eng.need (decide (a % 64 = 0 ∧ a + 512 ≤ 0x80000)) (op.args.getD 0 0)
    let l ← Eng.many (tab 64 (fun n => coreAcc r (a + 8 * n) 8 .rd))
    pure (acc, accOf (if tag = 0 then l else l.map (fun x => x % 2 ^ 32)) tag, 0, 0)
  | .mxstc acc msk _ _ tt rm => do
    let o := mxstcOut op.args msk tt rm
    let pw := op.args.getD 2 0
    Eng.refuseIf o.refusal
    Eng.need (pw == 0 || phaseAddrOk pw) pw
    let a := accs[acc.val]
    let fl ← mxStore r o ((mxMode op.rm o.rnd).getD .rne) op.sat8 blk a.tag a.list
    pure (acc, a, fl, pw)
  | .mxzero acc => pure (acc, {}, 0, 0)
  | _ => Eng.refuse 0

end Sys2Proof.Machine
end

