-- ==== Sys2Proof/Machine/MatrixI.lean ====
section
/-! DEFINITION. The matrix instructions, the unit's kick register and queue, and commands to other cores' units (R231 to R243). -/

namespace Sys2Proof.Machine

/-- A compute operation (R232). -/
def mxIsCompute : Instr → Bool
  | .mxgo | .mma _ _ _ _ _ _ _ | .mxldc _ _ _ | .mxstc _ _ _ _ _ _ | .mxzero _ => true
  | _ => false

/-- Queue entries held, counted from issue; a commanded operation may wait in the kick register without one (R232). -/
def Mx.held (m : Mx) : Nat := m.kicks.countP (fun o => o.entry) + m.ops.length + (if m.run.isSome then 1 else 0)

/-- The operation the issuing thread kicks, with what it captures at issue (R127, R233, R235). -/
def State.mxOp (s : State) (ins : Instr) (args : List Dword) : MxOp :=
  let t := s.cth
  { ins := ins, args := args, p := t.p.toList, iss := s.issuer, rm := t.fctl.rm, te := t.fctl.te, sat8 := t.fctl.sat8
    remote := false, entry := mxIsCompute ins, issued := s.counter, addr := (t.sg[0].base.toNat + s.cur.pc.toNat) % 0x80000 }

/-- The kick of a matrix instruction: its release, a queue entry for a compute operation, then the kick register (R214, R232). A gateway
core has no matrix unit, and the spec does not say what the instruction does there: the model runs it on a unit of that core's own (entry
95). -/
def State.mxKick (s : State) (ins : Instr) (args : List Dword) : Except Halt State := do
  s.release
  let m := (s.core s.cur.core).mx
  if mxIsCompute ins ∧ 8 ≤ m.held then .error (.wait s .room)
  else .ok (s.modCore s.cur.core (fun c => { c with mx := { c.mx with kicks := c.mx.kicks ++ [s.mxOp ins args] } }))

/-- MXPROG: the word is checked at issue (R241). -/
def execMxprog (r : Fin 24) (s : State) : Host.Outcome State Fault Refusal :=
  finish s (do
    let w ← readG s r
    if mxProgOk w.toNat then done (← s.mxKick (.mxprog r) [w]) else .error (.trap 0x0D w))

/-- MXCFG (R235). -/
def execMxcfg (n : Fin 8) (r : Fin 24) (s : State) : Host.Outcome State Fault Refusal :=
  finish s (do
    let w ← readG s r
    done (← s.mxKick (.mxcfg n r) [w]))

/-- MXGO (R235). -/
def execMxgo (s : State) : Host.Outcome State Fault Refusal := finish s (do done (← s.mxKick .mxgo []))

/-- MMA: its words, phase word and packet registers are read at issue (R237). -/
def execMma (acc : Fin 4) (z : Bool) (fmt : Option Ty) (d r : Fin 24) (t : Option (Fin 24)) (count : Dword) (s : State) :
    Host.Outcome State Fault Refusal :=
  finish s (do
    let a ← readG s d
    let b ← readG s r
    let p ← match t with | some t => readG s t | none => pure 0
    done (← s.mxKick (.mma acc z fmt d r t count) [a, b, p]))

/-- MXLDC (R238). -/
def execMxldc (acc : Fin 4) (tag : Fin 3) (r : Fin 24) (s : State) : Host.Outcome State Fault Refusal :=
  finish s (do
    let a ← readG s r
    done (← s.mxKick (.mxldc acc tag r) [a]))

/-- MXSTC: waits for earlier operations on its accumulator, kicked ones among them (entry 33), takes the deferred traps of that accumulator
of its core's unit, kicks (R240, R125). -/
def execMxstc (acc : Fin 4) (msk : Bool) (d r : Fin 24) (tt : Ty) (rm : Option RMode) (s : State) :
    Host.Outcome State Fault Refusal :=
  finish s (do
    let a ← readG s d
    let p ← readGroup s r 2
    if (s.core s.cur.core).mx.names acc.val then .error (.wait s .room)
    else do
      observeAll (s.cth.deferred.filter (fun x => x.core == s.cur.core && x.acc == some acc))
      done (← s.mxKick (.mxstc acc msk d r tt rm) (a :: p)))

/-- MXMASK (R239). -/
def execMxmask (r : Fin 24) (s : State) : Host.Outcome State Fault Refusal :=
  finish s (do
    let a ← readG s r
    done (← s.mxKick (.mxmask r) [a]))

/-- MXUNF (R242). -/
def execMxunf (r : Fin 24) (s : State) : Host.Outcome State Fault Refusal :=
  finish s (do
    let a ← readG s r
    done (← s.mxKick (.mxunf r) [a]))

/-- MXZERO (R238). -/
def execMxzero (acc : Fin 4) (s : State) : Host.Outcome State Fault Refusal :=
  finish s (do done (← s.mxKick (.mxzero acc) []))

/-- MXRCMD: a release, then one command to another core's unit, whose number is translated as it is sent: a store-release, after which the
thread goes on (R48, R93, R243, R357). -/
def execMxrcmd (d : Fin 24) (s : State) : Host.Outcome State Fault Refusal :=
  finish s (do
    s.release
    let g ← readGroup s d 4
    let r : RCmd := {
      cap := g.getD 0 0, target := g.getD 1 0, cmd := g.getD 2 0, val := g.getD 3 0
      op := { s.mxOp (.mxrcmd d) [g.getD 3 0] with remote := true, entry := false }, next := s.nextPc
      dest := if (g.getD 1 0).toNat < 2048 then s.lcore s.ctag (pkgOf s.cur.core) (g.getD 1 0).toNat else none }
    .error (.mail { s with rcmds := s.rcmds ++ [r] } .kick))

/-! ## The unit -/

/-- The request of the unit's accesses: its own core, the issuer's partition. -/
def mxReq (c : Nat) (op : MxOp) : Req :=
  { core := c, port := cluOf c, tag := op.iss.tag, thr := false, kind := 2, unit := idxOf c, uid := op.iss.uid }

/-- A refused operation: the status mailbox and the report to the issuing thread (R233). -/
def State.mxRefused (s : State) (c : Nat) (op : MxOp) (v : Dword) : State :=
  (s.modCore c (fun k => { k with mx := { k.mx with status := BitVec.ofNat 64 (0x0D * 2 ^ 56 + op.addr) } })).report op.iss v

/-- A configuration operation applied to the shadow set, or the value it is refused with (R231, R232, R239, R242). -/
def mxConfigure (r : Req) (op : MxOp) (m : Mx) : Eng Mx :=
  let w := op.args.getD 0 0
  match op.ins with
  | .mxcfg n _ => pure { m with shadow := vset m.shadow n w }
  | .mxprog _ => do
    Eng.need (mxProgOk w.toNat) w
    pure { m with shadow := vset m.shadow 5 w }
  | .mxmask _ => do
    Eng.need (decide (w.toNat % 64 = 0 ∧ w.toNat + 64 ≤ 0x80000)) w
    let b ← Eng.store r w.toNat 64 .rd
    Eng.need (decide (bits b 39 32 ≤ 16 ∧ bits b 255 40 = 0)) w
    pure { m with mask := BitVec.ofNat 512 b }
  | .mxunf _ => do
    Eng.need (decide (w.toNat % 16 = 0 ∧ w.toNat + 32 ≤ 0x80000)) w
    let b ← Eng.store r w.toNat 32 .rd
    Eng.need (unfoldOk (BitVec.ofNat 256 b)) w
    pure { m with unf := BitVec.ofNat 256 b }
  | _ => Eng.refuse w

/-- The unit takes the head of its kick register: a configuration is applied, a compute operation is snapshot and queued; a commanded one
without a queue entry waits there until one is free (R232). -/
def State.mxTake (s : State) (c : Nat) : Option State :=
  let m := (s.core c).mx
  match m.kicks with
  | [] => none
  | op :: ks =>
    let m' := { m with kicks := ks }
    if mxIsCompute op.ins then
      if ¬ op.entry then none
      else
        let m' := { m' with ops := m.ops ++ [{ op with snap := some (m.shadow, m.unf, m.mask) }] }
        some (s.modCore c (fun k => { k with mx := m' }))
    else match Eng.run s m.taking [] (mxConfigure (mxReq c op) op { m' with taking := [] }) with
      | .done s m' => some (s.modCore c (fun k => { k with mx := m' }))
      | .refused s v => some ((s.modCore c (fun k => { k with mx := { m' with taking := [] } })).mxRefused c op v)
      | .more s t => some (s.modCore c (fun k => { k with mx := { k.mx with taking := t } }))
      | .paused _ _ _ | .again _ _ _ => none

/-- MATRIX_UNIT_TAKE (R232). -/
def execMatrixUnitTake (c : Nat) (s : State) : Host.Outcome State Fault Refusal := event s (s.mxTake c)

/-- The head of the queue runs: its steps and its stores, or its refusal (R232, R235). -/
def State.mxStart (s : State) (c : Nat) : Option State :=
  let m := (s.core c).mx
  match m.run, m.ops with
  | none, op :: ops =>
    (match Eng.run s m.starting [] (mxCompute (mxReq c op) op m.acc) with
     | .done s (a, x, fl, pw) =>
       some (s.modCore c (fun k => { k with mx := { k.mx with
         ops := ops, starting := [], acc := vset k.mx.acc a x
         run := some { op := op, flags := fl, pw := pw, acc := some a, err := none } } }))
     | .refused s v =>
       some (s.modCore c (fun k => { k with mx := { k.mx with
         ops := ops, starting := [], run := some { op := op, flags := 0, pw := 0, acc := none, err := some v } } }))
     | .more s t => some (s.modCore c (fun k => { k with mx := { k.mx with starting := t } }))
     | .paused _ _ _ | .again _ _ _ => none)
  | _, _ => none

/-- MATRIX_OP_START (R235). -/
def execMatrixOpStart (c : Nat) (s : State) : Host.Outcome State Fault Refusal := event s (s.mxStart c)

/-- A deferred trap among those of a thread, in issue order (R125). -/
def insertDeferred (d : Deferred) (ds : List Deferred) : List Deferred :=
  ds.filter (fun x => decide (x.issued ≤ d.issued)) ++ d :: ds.filter (fun x => decide (d.issued < x.issued))

/-- Flags of a completed operation of core c's unit merge into the issuing thread; enabled ones are deferred to their observer (R125,
R233). -/
def State.mxMerge (s : State) (c : Nat) (r : MxRun) : State :=
  let fl := r.flags &&& r.op.te
  s.modUid r.op.iss.uid (fun t => { t with
    fflg := t.fflg ||| r.flags
    deferred := if fl = 0 then t.deferred
      else insertDeferred { flags := fl, xpc := r.op.iss.pc, core := c, acc := r.acc, pw := r.pw, issued := r.op.issued } t.deferred })

/-- The first compute operation that waits for a queue entry takes one. -/
def grantFirst : List MxOp → List MxOp
  | [] => []
  | o :: os => if mxIsCompute o.ins && !o.entry then { o with entry := true } :: os else o :: grantFirst os

/-- A queue entry is free: the commanded operation that has waited longest in the kick register takes it (R232). -/
def Mx.grant (m : Mx) : Mx := if m.held < 8 then { m with kicks := grantFirst m.kicks } else m

/-- The running operation completes: its entry is free, flags, then the phase update; or the refusal is reported (R233). -/
def State.mxComplete (s : State) (c : Nat) : Option State :=
  match (s.core c).mx.run with
  | none => none
  | some r =>
    let s := s.modCore c (fun k => { k with mx := ({ k.mx with run := none } : Mx).grant })
    match r.err with
    | some v => some (s.mxRefused c r.op v)
    | none =>
      let s := s.mxMerge c r
      match Eng.now s (Eng.phase (mxReq c r.op) r.pw 0 1) with
      | .done s () => some s
      | .refused s v => some (s.mxRefused c r.op v)
      | .more _ _ | .paused _ _ _ | .again _ _ _ => none

/-- MATRIX_OP_COMPLETE (R233). -/
def execMatrixOpComplete (c : Nat) (s : State) : Host.Outcome State Fault Refusal := event s (s.mxComplete c)

/-! ## Commands from other cores (R243, R294) -/

/-- CAPKEY of a partition: four words, the least significant bytes first. -/
def State.capKey (s : State) (p : Nat) : List Byte := tab 4 (fun w => natLE (mget 0 (4 * p + w) s.io.capkey).toNat 8) |>.flatten

/-- The keyed check over bits [63:32] of a capability (R294). -/
def State.capCheck (s : State) (cap : Dword) : Nat :=
  leNat (kmac256 (s.capKey (bits cap.toNat 63 60)) (natLE (bits cap.toNat 63 32) 4) customCap 4)

/-- The instruction a command names, and the right it needs as a bit of [34:32]. -/
def rcmdInstr (cmd val : Dword) : Option (Instr × Nat) :=
  let n := cmd.toNat
  if n = 5 then some (.mxprog 0, 32)
  else if n < 8 then some (.mxcfg (Fin.ofNat 8 n) 0, 32)
  else if n = 8 then some (.mxgo, 33)
  else if n = 9 then some (.mxzero (Fin.ofNat 4 (bits val.toNat 1 0)), 34)
  else if n = 10 then some (.mxmask 0, 32)
  else none

/-- The thread that has sent a command goes on: its kick is performed (R48, R93). -/
def State.kicked (s : State) (r : RCmd) : State :=
  s.modUid r.op.iss.uid (fun t => match t.wait with | .mail .kick => { t with pc := r.next, wait := .ready } | _ => t)

/-- A command reaches its target, after the commands its thread sent before it: refused under R243, or it joins the target's kick register
as a release, and its thread goes on; a compute operation takes its queue entry there, or waits there for one (R232). A target in no logical
core draws the partition error response (R357), reported as an engine error. -/
def State.rcmdArrive (s : State) (i : Nat) : Option State :=
  match s.rcmds[i]? with
  | none => none
  | some r =>
    let tag := r.op.iss.tag
    let cap := r.cap.toNat
    let s' := { s with rcmds := ldel s.rcmds i }.kicked r
    let refused : State := s'.modUid r.op.iss.uid (fun t => { t with
      reports := t.reports ++ [{ cause := 0x0F, xpc := r.op.iss.pc, xval := r.cap }] })
    if (s.rcmds.take i).any (fun x => x.op.iss.uid == r.op.iss.uid) then none
    else if 2048 ≤ r.target.toNat then some refused
    else match r.dest with
    | none => some ((s'.noCore tag (r.target.toNat * 2 ^ 29)).report r.op.iss r.target)
    | some c =>
      match rcmdInstr r.cmd r.val with
      | none => some refused
      | some (ins, right) =>
        if s.capCheck r.cap ≠ bits cap 31 0 ∨ bits cap 63 60 ≠ tag ∨ (s.core c).tag.val ≠ tag ∨
            r.target.toNat < bits cap 59 49 ∨ bits cap 48 38 < r.target.toNat ∨ ¬ bitAt cap right then some refused
        else
          let entry := mxIsCompute ins && decide ((s.core c).mx.held < 8)
          some (s'.modCore c (fun k => { k with mx := { k.mx with kicks := k.mx.kicks ++ [{ r.op with ins := ins, entry := entry }] } }))

/-- MXRCMD_ARRIVAL (R243). -/
def execMxrcmdArrival (i : Nat) (s : State) : Host.Outcome State Fault Refusal := event s (s.rcmdArrive i)

end Sys2Proof.Machine
end

