-- ==== Sys2Proof/Machine/Regs.lean ====
section
/-! DEFINITION. The privileged registers of a package, by unit and index: what a read returns and what a write does (R287 to R292,
R323, R334, R341, R350, R357, R358, R362, R367, R370 to R372, R380). -/

namespace Sys2Proof.Machine

/-! ## Addresses (R289) -/

/-- A register address has bits [63:48] and [31:16] zero. -/
def regAddrOk (a : Dword) : Bool := decide (bits a.toNat 63 48 = 0 ∧ bits a.toNat 31 16 = 0)

def regUnit (a : Dword) : Nat := bits a.toNat 47 32
def regIdx (a : Dword) : Nat := bits a.toNat 15 0

/-- The number of entry i of an array of n registers from base, stride apart. -/
def regSlot (i base n stride : Nat) : Option Nat :=
  if base ≤ i ∧ (i - base) % stride = 0 ∧ (i - base) / stride < n then some ((i - base) / stride) else none

/-! ## Core, cluster and service-core registers (R289, R290, R323, R357) -/

/-- CORECTL (R290). -/
def Core.ctlWord (c : Core) : Dword :=
  BitVec.ofNat 64 (c.quota * 1024 + b2n c.halted * 128 + b2n c.stoppend * 64 + c.tag.val)

/-- SLOTMAP and GWSLOTS: the slots that hold a thread. -/
def Core.slotMap (c : Core) : Dword := BitVec.ofNat 64 (sumUp 32 (fun n => if (mfind n c.slots).isSome then 2 ^ n else 0))

/-- ISTAT (R289). -/
def Core.istat (c : Core) : Dword := BitVec.ofNat 64 (b2n c.ien + c.islot.val * 256 + c.lost * 2 ^ 32)

def State.coreRegRead (s : State) (c i : Nat) : Dword :=
  let x := s.core c
  if i = 0 then x.ctlWord
  else if i = 1 then x.slotMap
  else match regSlot i 0x100 32 2 with
    | some n => mget 0 n x.scrpl
    | none => 0

/-- A write of CORECTL stores the quota, at most 32; a write of SCRPL word 1 delivers the reply (R290, R292). -/
def State.coreRegWrite (s : State) (c i : Nat) (x : Dword) : State :=
  if i = 0 then s.modCore c (fun k => { k with quota := min 32 (bits x.toNat 15 10) })
  else match regSlot i 0x100 32 2, regSlot i 0x101 32 2 with
    | some n, _ => s.modCore c (fun k => { k with scrpl := mset 0 n x k.scrpl })
    | none, some n => s.syscReply c n x
    | none, none => s

/-- Sealed images in the cache that are not yet written back (R323). -/
def Cluster.unwritten (x : Cluster) : Nat := x.places.countP (fun e => !e.2.written && e.2.sealed)

def State.cluRegRead (s : State) (k i : Nat) : Dword :=
  let x := s.clu k
  if i < 13 then mget 0 i x.gran
  else if 0x20 ≤ i ∧ i < 0x120 then BitVec.ofNat 64 (mget 0 (i - 0x20) x.accasn).val
  else if 0x201 ≤ i ∧ i ≤ 0x20C then mget 0 (i - 0x200) x.csave
  else if i = 0x210 then BitVec.ofNat 64 x.unwritten
  else if i = 0x211 then BitVec.ofNat 64 (x.cached % 512)
  else if i = 0x300 then x.csown.setWidth 64
  else 0

/-- The owners a write of CSOWN stores: values 13 to 15 store 0 (R357). -/
def csownOf (x : Nat) : BitVec 32 :=
  BitVec.ofNat 32 (sumUp 8 (fun r => let o := bits x (4 * r + 3) (4 * r); (if 12 < o then 0 else o) * 16 ^ r))

/-- A write of a cluster's register. The spec does not say what a write of ACCASN with a tag of 13 to 15 does: it is stored, and owns the
entry for no partition (entry 74). -/
def State.cluRegWrite (s : State) (k i : Nat) (x : Dword) : State :=
  if i < 13 then s.modClu k (fun c => { c with gran := mset 0 i x c.gran })
  else if 0x20 ≤ i ∧ i < 0x120 then s.modClu k (fun c => { c with accasn := mset 0 (i - 0x20) (Fin.ofNat 16 x.toNat) c.accasn })
  else if 0x201 ≤ i ∧ i ≤ 0x20C then s.modClu k (fun c => { c with csave := mset 0 (i - 0x200) x c.csave })
  else if i = 0x210 then s.granWb k x
  else if i = 0x300 then s.modClu k (fun c => { c with csown := csownOf x.toNat })
  else s

def State.svcRegRead (s : State) (c i : Nat) : Dword :=
  match i with
  | 0 => (s.core c).ivec
  | 1 => (s.core c).epc
  | 2 => (s.core c).istat
  | _ => 0

/-- IVEC, EPC, ISTAT: of lost, the bits written 1 are cleared (R289). -/
def State.svcRegWrite (s : State) (c i : Nat) (x : Dword) : State :=
  match i with
  | 0 => s.modCore c (fun k => { k with ivec := x })
  | 1 => s.modCore c (fun k => { k with epc := x })
  | 2 => s.modCore c (fun k => { k with
      ien := bitAt x.toNat 0, islot := Fin.ofNat 32 (bits x.toNat 12 8)
      lost := k.lost &&& (0xFFFF - bits x.toNat 47 32) })
  | _ => s

/-! ## The I/O die (R289, R334, R341, R357, R380) -/

/-- A pop of WLOG p: the oldest entry, or 0 (R334). -/
def State.popWlog (s : State) (p : Nat) : State × Dword :=
  match mget [] p s.io.wlog with
  | e :: l => (s.modIo (fun io => { io with wlog := mset [] p l io.wlog }), e)
  | [] => (s, 0)

/-- ASTAT (R380). -/
def Boot.astatWord (b : Boot) : Dword := BitVec.ofNat 64 (b.astat + b2n b.logFull * 4)

/-- The number of a WADDR or WCTL register: 4p + w (R334). -/
def watchSlot (i base : Nat) : Option Nat :=
  match regSlot i base 0x80 2 with
  | some n => if 8 ≤ n ∧ n < 104 ∧ n % 8 < 4 then some (n / 8 * 4 + n % 8) else none
  | none => none

def State.ioRegRead (s : State) (i : Nat) : State × Dword :=
  if i = 0 then s.popIntq
  else if 0x301 ≤ i ∧ i ≤ 0x30C then (s, BitVec.ofNat 64 (b2n (s.attached (i - 0x300))))
  else if 0x311 ≤ i ∧ i ≤ 0x31C then s.popWlog (i - 0x310)
  else if 0x400 ≤ i ∧ i ≤ 0x40C then (s, mget 0 (i - 0x400) s.io.ptroot)
  else if 0x500 ≤ i ∧ i ≤ 0x50C then (s, BitVec.ofNat 64 (mget 0 (i - 0x500) s.io.pvcount))
  else if i = 0x600 then (s, BitVec.ofNat 64 s.boot.log.length)
  else if i = 0x629 then (s, s.boot.astatWord)
  else match watchSlot i 0x200, watchSlot i 0x201 with
    | some n, _ => (s, mget 0 n s.io.waddr)
    | none, some n => (s, (mget 0 n s.io.wctl).setWidth 64)
    | none, none => (s, 0)

/-- A write of word w of CAPKEY p: the key changes, so every capability made under it fails its check (R289, R294). -/
def State.setCapkey (s : State) (p w : Nat) (x : Dword) : State :=
  s.modIo (fun io => { io with capkey := mset 0 (4 * p + w) x io.capkey })

/-- MEXT (R380). -/
def State.extendLog (s : State) (x : Dword) : State :=
  if s.boot.astat = 1 then s
  else if 64 ≤ s.boot.log.length then { s with boot := { s.boot with logFull := true } }
  else
    let d := s.boot.mdig.toList.flatMap (fun w => natLE w.toNat 8)
    { s with boot := { s.boot with log := s.boot.log ++ [logEntry (bits x.toNat 31 0) (bits x.toNat 63 32) d] } }

/-- ASIGN (R380). -/
def State.startAttestation (s : State) (x : Dword) : State :=
  if s.boot.astat = 1 then s else { s with boot := { s.boot with asign := x, astat := 1 } }

/-- The fields of PTROOT (R341). -/
def ptrootOf (x : Nat) : Dword := BitVec.ofNat 64 (bits x 63 58 * 2 ^ 58 + bits x 47 12 * 2 ^ 12 + bits x 0 0)

def State.ioRegWrite (s : State) (i : Nat) (x : Dword) : State :=
  if 0x101 ≤ i ∧ i < 0x140 then
    (if 1 ≤ i % 16 ∧ i % 16 ≤ 12 then s.setCapkey (i % 16) ((i - 0x100) / 16) x else s)
  else if 0x301 ≤ i ∧ i ≤ 0x30C then
    s.modIo (fun io => { io with dbg := if bitAt x.toNat 0 then sinsert (i - 0x300) io.dbg else io.dbg.filter (· != i - 0x300) })
  else if 0x400 ≤ i ∧ i ≤ 0x40C then s.modIo (fun io => { io with ptroot := mset 0 (i - 0x400) (ptrootOf x.toNat) io.ptroot })
  else if 0x500 ≤ i ∧ i ≤ 0x50C then
    s.modIo (fun io =>
      let v := mget 0 (i - 0x500) io.pvcount &&& (2 ^ 64 - 1 - x.toNat)
      { io with pvcount := mset 0 (i - 0x500) v io.pvcount })
  else if 0x610 ≤ i ∧ i < 0x618 then
    { s with boot := { s.boot with mdig := vset s.boot.mdig (Fin.ofNat 8 (i - 0x610)) x } }
  else if i = 0x618 then s.extendLog x
  else if 0x620 ≤ i ∧ i < 0x628 then
    { s with boot := { s.boot with anonce := vset s.boot.anonce (Fin.ofNat 8 (i - 0x620)) x } }
  else if i = 0x628 then s.startAttestation x
  else match watchSlot i 0x200, watchSlot i 0x201 with
    | some n, _ => s.modIo (fun io => { io with waddr := mset 0 n x io.waddr })
    | none, some n => s.modIo (fun io => { io with wctl := mset 0 n (x.setWidth 9) io.wctl })
    | none, none => s

/-! ## Tokens (R362, R363) -/

def bucketShare (b : Dword) : Nat := bits b.toNat 8 0

/-- Tokens a bucket receives each 1,024 cycles (R363). -/
def bucketRefill (b : Dword) : Nat := Config.tokenCap * bucketShare b / 256

/-- The most tokens a bucket holds (R362). -/
def bucketDepth (b : Dword) : Nat := if bits b.toNat 47 16 = 0 then 2 * bucketRefill b else bits b.toNat 47 16

/-- The levels of a die's buckets after a refill, with the overflow shared among the demanding partitions: those of which a request began to
wait in the interval, or waited as it began, be it that it waits no more (R363). -/
def Die.refill (d : Die) : SMap Nat :=
  let b (p : Nat) : Dword := mget 0 p d.bucket
  let want (p : Nat) : Nat := mget 0 p d.blevel + bucketRefill (b p)
  let pool := if d.qosctl.getLsbD 1 then sumUp 13 (fun p => want p - bucketDepth (b p)) else 0
  let dem (p : Nat) : Bool := d.demand.contains p || d.waiters.any (fun e => e.1 == p)
  let shares := sumUp 13 (fun p => if dem p then bucketShare (b p) else 0)
  (List.range 13).foldl (fun m p =>
    let v := min (want p) (bucketDepth (b p))
    let v := if dem p ∧ shares ≠ 0 then min (v + pool * bucketShare (b p) / shares) (bucketDepth (b p)) else v
    mset 0 p v m) d.blevel

/-- A thread in its slot waits for tokens, as a service thread does for an operation that it runs. -/
def State.tokenWait (s : State) (uid : Nat) : Bool :=
  match s.findUid uid with
  | some (c, n) => (s.thread c n).wait == .poll .tokens
  | none => false

/-- Some thread of a service core waits in a privileged instruction. -/
def State.serviceWaits (s : State) : Bool :=
  s.cores.any (fun e => isService e.1 && e.2.slots.any (fun p => match p.2.wait with | .poll _ => true | _ => false))

/-- A copy whose requests bear a name, by its life and its number, has not ended (R363). -/
def State.copyGoes (s : State) (uid id : Nat) : Bool :=
  let is (c : Copy) : Bool := c.iss.uid == uid && c.issued == (id / 8 - 1) / 2 ^ 65
  s.copies.any is || s.clusters.any (fun e => e.2.notices.any is)

/-- A request of no thread may wait for tokens still, by its name: of the granary of a cluster, the events of a graph, a GLAUNCH, the
packets from outside, the image copies of a core, a GWSTART (R363). -/
def State.flowWaits (s : State) (id : Nat) : Bool :=
  let k := id / 8
  match id % 8 with
  | 1 => !(s.clu k).descs.isEmpty || !s.pkts.isEmpty || s.serviceWaits ||
      s.waits.any (fun w => match w.who with | .granaryWriteback k' _ => k' == k | _ => false)
  | 2 => s.waits.any (fun w => w.graph == some k) || ((mfind k s.graphs).isNone && s.serviceWaits)
  | 3 => s.tokenWait k
  | 4 => s.waits.any (fun w => match w.who with | .uePacketReceive _ _ | .inboundDma _ => true | _ => false)
  | 5 => (s.core k).claims.any (fun c => !c.ready && !c.failed)
  | _ => s.serviceWaits

/-- A request whose name is held still waits for tokens: a thread's ordinary access, a piece of a relaxed one at its port, an access of a
copy, an operation of an engine (R362, R363). -/
def State.stillWaits (s : State) (e : Nat × Nat × Nat) : Bool :=
  let (_, uid, name) := e
  let id := name / 2
  if name % 2 = 1 then
    (if id = 0 then s.tokenWait uid
     else s.net.any (fun a => a.iss.uid == uid && ((List.range a.pieces.length).zip a.pieces).any (fun q =>
       1 + 64 * a.issued + q.1 == id && q.2.stage == .sent)))
  else if id % 8 = 0 ∧ id ≠ 0 then s.copyGoes uid id
  else if uid = 0 then s.flowWaits id else s.engineBusy uid

/-- The refill of a die's buckets at the end of one interval (R363). -/
def State.refillOnce (s : State) (k : Nat) : State :=
  s.modDie k (fun d =>
    { d with blevel := d.refill, demand := [], waiters := d.waiters.filter s.stillWaits, refills := d.refills + 1 })

/-- The refills of the intervals that are past are made before a share, a depth or the control changes; where no bucket has a share the
first cuts the levels to the depths and the others leave them as they are (R363). -/
def State.refillsDue (s : State) (k : Nat) : State :=
  let d := s.die k
  if d.bucket.all (fun e => bucketShare e.2 == 0) then
    (if d.refills < s.counter / 1024 then (s.refillOnce k).modDie k (fun d => { d with refills := s.counter / 1024 }) else s)
  else (List.range (s.counter / 1024 - d.refills)).foldl (fun s _ => s.refillOnce k) s

/-! ## Dies (R350, R362) -/

/-- MIGSTAT (R350). -/
def Die.migstat (d : Die) : Dword := BitVec.ofNat 64 (d.migcause * 16 + d.migst * 4 + b2n d.migrej)

def State.dieRegRead (s : State) (k i : Nat) : Dword :=
  let d := s.die k
  if i = 0 then d.migva
  else if i = 1 then d.migdst
  else if i = 3 then d.migstat
  else if i = 0x10 then d.qosctl.setWidth 64
  else if 0x20 ≤ i ∧ i ≤ 0x2C then mget 0 (i - 0x20) d.bucket
  else if 0x30 ≤ i ∧ i ≤ 0x3C then BitVec.ofNat 64 (mget 0 (i - 0x30) d.blevel % 2 ^ 32)
  else 0

/-- MIGGO: a 1 starts a migration unless the unit is busy (R350). -/
def State.startMigration (s : State) (k : Nat) (x : Dword) : State :=
  if ¬ bitAt x.toNat 0 then s
  else s.modDie k (fun d => if d.migst = 1 then { d with migrej := true } else { d with migst := 1, migcause := 0 })

def State.dieRegWrite (s : State) (k i : Nat) (x : Dword) : State :=
  let n := x.toNat
  if i = 0 then s.modDie k (fun d => { d with
    migva := BitVec.ofNat 64 (bits n 63 60 * 2 ^ 60 + bits n 51 16 * 2 ^ 16 + bits n 0 0) })
  else if i = 1 then s.modDie k (fun d => { d with migdst := BitVec.ofNat 64 (bits n 63 58 * 2 ^ 58 + bits n 47 12 * 2 ^ 12) })
  else if i = 2 then s.startMigration k x
  else if i = 3 then s.modDie k (fun d => { d with migrej := d.migrej && !bitAt n 0 })
  else if i = 0x10 then (s.refillsDue k).modDie k (fun d => { d with
    qosctl := x.setWidth 2, waiters := if bitAt n 0 then d.waiters else []
    demand := if bitAt n 0 then d.demand else d.waiters.foldl (fun l e => sinsert e.1 l) d.demand })
  else if 0x20 ≤ i ∧ i ≤ 0x2C then (s.refillsDue k).modDie k (fun d => { d with
    bucket := mset 0 (i - 0x20) (BitVec.ofNat 64 (bits n 47 16 * 2 ^ 16 + bits n 8 0)) d.bucket })
  else s

/-! ## Link ports and gateways (R367, R370 to R372) -/

/-- LCTL and LSTAT (R367). -/
def Port.lctl (p : Port) : Dword := BitVec.ofNat 64 (p.rate * 64 + p.peer)
def Port.lstat (p : Port) : Dword := BitVec.ofNat 64 (p.replays * 2 ^ 32 + p.seen * 1024 + p.lrate * 256 + p.lstate)

/-- The value of a kind-9 record for a changed link state (R370). -/
def linkValue (n state : Nat) : Nat := n * 2 ^ 47 + state * 2 ^ 36

/-- A piece of an access is on its way over a port, or its reply is: the place it goes to lies in a package whose route the port serves
(R368, R369). -/
def State.crosses (s : State) (n : Nat) (q : Piece) : Bool :=
  match (q.phys.map (fun e => e.1)).or (locPkg q.loc) with
  | some k => k != s.boot.pkg && mget 31 k s.boot.routes == n
  | none => false

/-- A piece that crosses a link as it leaves state up completes with an uncorrectable error. One that is past its own port may have been
performed before its reply was lost, one that is not may go on to meet the link again: free bits say which (R369, entries 7 and 75). -/
def State.losePiece (s : State) (a : Access) (q : Piece) : State × Piece :=
  let lost : Piece := { q with stage := .failed 0x0C }
  match q.stage with
  | .sent => let (b, s) := s.freeB; (s, if b then lost else q)
  | .arrived =>
    let (b, s) := s.freeB
    let l : Loc := match q.phys with | some (k, pa) => physLoc k pa | none => q.loc
    (match (if b then some (s.bank a.iss.tag l q.n q.op) else none) with
     | some (.ok s _) => (s, lost)
     | _ => (s, lost))
  | .done _ => (s, lost)
  | .held _ | .failed _ => (s, q)

/-- The package where an address of a copy now lies. -/
def State.copyPkg (s : State) (c : Copy) (a : Dword) : Option Nat :=
  match s.place c.iss.core c.iss.tag (raSpace a) (raField a) with
  | some (.glob va) => (s.peek c.port c.iss.tag va).map (fun e => ptePkg e.1)
  | some l => locPkg l
  | none => none

/-- Whether a request of a copy to an address crosses a port of the package: its engine or the address lies here, the other behind the port
(R369). -/
def State.farThrough (s : State) (n : Nat) (c : Copy) (a : Dword) : Bool :=
  let h := c.home.getD s.boot.pkg
  match s.copyPkg c a with
  | some k => k != h && (k == s.boot.pkg || h == s.boot.pkg) && mget 31 (if h = s.boot.pkg then k else h) s.boot.routes == n
  | none => false

/-- The address of a copy whose request, or its reply, may be lost on a port's link: of a chunk on its way, or of one whose stores are not
yet acknowledged (R216, R217, R369). -/
def State.copyAt (s : State) (n : Nat) (c : Copy) : Option Dword :=
  ((c.uncounted.zip c.flying).filterMap (fun e => if e.1.2 == c.pws.filter (· != 0) then some (raAdd c.dst (c.dstAt e.2.1 e.2.2)) else none) ++
    c.moving.flatMap (fun k => [raAdd c.src (k.row * c.sstr + k.off), raAdd c.dst (c.dstAt k.row k.off)])).find? (s.farThrough n c)

/-- The copies that lose a request on a port's link, each as a free bit says, from the last on: such a copy fails (R217, R369, entry 7). -/
def State.copiesLost (s : State) (n : Nat) : State :=
  (List.range s.copies.length).reverse.foldl (fun s i =>
    match s.copies[i]? with
    | none => s
    | some c => match s.copyAt n c with
      | none => s
      | some a =>
        let (b, s) := s.freeB
        if b then (s.scramble c).copyFails i c a else s) s

/-- The requests that are lost on a port's link (R369). -/
def State.linkLost (s : State) (n : Nat) : State :=
  let s := s.copiesLost n
  let r := s.net.foldl (fun (x : State × List Access) a =>
    let y := a.pieces.foldl (fun (y : State × List Piece) q =>
      if x.1.crosses n q then (let z := y.1.losePiece a q; (z.1, y.2 ++ [z.2])) else (y.1, y.2 ++ [q])) (x.1, [])
    (y.1, x.2 ++ [{ a with pieces := y.2 }])) (s, [])
  { r.1 with net := r.2 }

/-- A port's link enters a state; when it leaves state up, the packets queued on it and the requests that cross it are lost, and a kind-9
record is posted (R369). -/
def State.linkState (s : State) (n state : Nat) : State :=
  let p := s.port n
  let s := s.setPort n { p with lstate := state, lrate := if state = 2 then p.lrate else 0 }
  if p.lstate = 2 ∧ state ≠ 2 then (s.linkLost n).postRec 9 0 (linkValue n state) else s

/-- LCTL: the link retrains, or is off (R367). -/
def State.setLctl (s : State) (n : Nat) (x : Dword) : State :=
  let r := bits x.toNat 7 6
  (s.modPort n (fun p => { p with rate := r, peer := bits x.toNat 5 0 })).linkState n (if r = 0 then 0 else 1)

/-- GWCTL (R370). -/
def Core.gwctl (c : Core) : Dword := BitVec.ofNat 64 (c.quota * 1024 + c.tag.val)

/-- An access of GWDATA: the eight bytes at GWADDR, which then moves on (R370). -/
def State.gwdataGet (s : State) (c : Nat) : State × Dword :=
  let x := s.core c
  (s.setCore c { x with gwaddr := x.gwaddr + 8 }, BitVec.ofNat 64 (rdLE x.mem x.gwaddr.toNat 8))
def State.gwdataPut (s : State) (c : Nat) (v : Dword) : State :=
  s.modCore c (fun x => { x with mem := wrLE x.mem x.gwaddr.toNat v.toNat 8, gwaddr := x.gwaddr + 8 })

/-- A FLOW register: an open one has blocks of some size in this package's KNS memory (R371, R372). -/
def flowOpens (x : Nat) : Bool :=
  bitAt x 63 && bits x 55 48 != 0 && bits x 47 36 != 0 &&
    decide (bits x 35 0 * 4096 + 64 * bits x 47 36 * bits x 55 48 ≤ Config.knsBytes)

/-- A write of a FLOW register (R372). -/
def State.setFlow (s : State) (n p f : Nat) (x : Dword) : State :=
  let v := x.toNat
  let low := bits v 55 0
  s.modPort n (fun q =>
    let old := mget {} (16 * p + f) q.flows
    let new : Flow :=
      if flowOpens v then { reg := BitVec.ofNat 64 (2 ^ 63 + low), counts := [], ready := [] }
      else { reg := BitVec.ofNat 64 low, counts := if bitAt v 63 then [] else old.counts, ready := if bitAt v 63 then [] else old.ready }
    { q with flows := mset {} (16 * p + f) new q.flows })

def State.linkRegRead (s : State) (n i : Nat) : State × Dword :=
  let p := s.port n
  let c := ckey s.boot.pkg (2052 + n)
  let x := s.core c
  if i = 0 then (s, p.lctl)
  else if i = 1 then (s, p.lstat)
  else if 0x100 ≤ i ∧ i < 0x1D0 then (s, (mget {} (i - 0x100) p.flows).reg)
  else if i = 0x200 then (s, x.gwctl)
  else if i = 0x201 then (s, x.gwaddr.setWidth 64)
  else if i = 0x202 then s.gwdataGet c
  else if i = 0x203 then (s, x.gwseg)
  else if 0x204 ≤ i ∧ i < 0x208 then (s, x.gwarg[(Fin.ofNat 4 (i - 0x204)).val])
  else if i = 0x209 then (s, x.slotMap)
  else (s, 0)

/-- A core without a thread takes a tag: its stop bits follow it, and where the partition's stop has come, no thread of the partition on it
is left to halt (R290, R296). -/
def State.retag (s : State) (c p : Nat) : State :=
  (s.modCore c (fun k => { k with tag := Fin.ofNat 16 p, halted := false, stoppend := s.stopPending p })).settle c

/-- A write of a link port's or gateway's register. The spec does not say what a write of GWCTL with a tag of 13 to 15 does: it is stored,
as one above the package's quota of slots is stored as 32 (entry 59). -/
def State.linkRegWrite (s : State) (n i : Nat) (v : Dword) : State :=
  let c := ckey s.boot.pkg (2052 + n)
  if i = 0 then s.setLctl n v
  else if 0x100 ≤ i ∧ i < 0x1D0 then s.setFlow n ((i - 0x100) / 16) ((i - 0x100) % 16) v
  else if i = 0x200 then
    let s := s.modCore c (fun x => { x with quota := min 32 (bits v.toNat 15 10) })
    if (s.core c).slots.isEmpty then s.retag c (v.toNat % 16) else s
  else if i = 0x201 then s.modCore c (fun x => { x with gwaddr := BitVec.ofNat 19 (v.toNat / 8 * 8) })
  else if i = 0x202 then s.gwdataPut c v
  else if i = 0x203 then s.modCore c (fun x => { x with gwseg := v })
  else if 0x204 ≤ i ∧ i < 0x208 then s.modCore c (fun x => { x with gwarg := vset x.gwarg (Fin.ofNat 4 (i - 0x204)) v })
  else s

/-- The thread a write to GWSTART starts, in the lowest free slot within the quota; none where the table breaks R39 or no slot is free
(R370). The table is read under the gateway's tag. -/
def Eng.gwStart (n : Nat) (entry : Dword) : Eng Unit := fun s =>
  let c := ckey s.boot.pkg (2052 + n)
  let x := s.core c
  match x.freeSlot with
  | none => .ok ((), s)
  | some k =>
    if x.gwseg = 0 then .ok ((), s)
    else
      let r : Req := { core := c, port := cluOf c, tag := x.tag.val, thr := false, kind := 4, unit := idxOf c, uid := 0, id := 6 }
      match (readSegs r x.tag.val x.gwseg).run s with
      | .ok (.ok segs, s) =>
        let t : Thread := {
          g := Vector.ofFn (fun i => if h : i.val < 4 then x.gwarg[i.val] else 0)
          sg := Vector.ofFn (fun i => segs.getD i.val {}), pc := entry, tid := k, uid := s.nextUid }
        .ok ((), { s with nextUid := s.nextUid + 1 }.setThread c k t)
      | .ok (.error _, s) => .ok ((), s)
      | .error e => .error e

/-! ## All registers (R289) -/

/-- A read of a register: the state after it and its value; an address that names no register reads 0. -/
def State.regRead (s : State) (a : Dword) : State × Dword :=
  let u := regUnit a
  let i := regIdx a
  if u < 0x800 then (s, s.coreRegRead (ckey s.boot.pkg u) i)
  else if u < 0x820 then (s, s.cluRegRead (s.boot.pkg * 64 + (u - 0x800)) i)
  else if 0x880 ≤ u ∧ u < 0x884 then (s, s.svcRegRead (ckey s.boot.pkg (2048 + (u - 0x880))) i)
  else if u = 0x8C0 then s.ioRegRead i
  else if 0x900 ≤ u ∧ u < 0x904 then (s, s.dieRegRead (s.boot.pkg * 4 + (u - 0x900)) i)
  else if 0xA00 ≤ u ∧ u ≤ 0xA0C ∧ i < 2048 then (s, mget 0 (lctKey (u - 0xA00) s.boot.pkg i) s.lct)
  else if 0xA80 ≤ u ∧ u < 0xA98 then s.linkRegRead (u - 0xA80) i
  else (s, 0)

/-- A logical-core table entry's fields, in the table of a package (R357). -/
def State.setLctAt (s : State) (pkg p n : Nat) (x : Dword) : State :=
  { s with lct := mset 0 (lctKey p pkg n) (BitVec.ofNat 64 (bits x.toNat 63 63 * 2 ^ 63 + bits x.toNat 10 0)) s.lct }

/-- A logical-core table entry of this package (R357). -/
def State.setLct (s : State) (p n : Nat) (x : Dword) : State := s.setLctAt s.boot.pkg p n x

/-- What another package's service has set there, as this package meets it: the tag of a core, the owners of a cluster store's regions,
the package's logical-core table (R357, R358, R368, entry 76). -/
def State.farRegWrite (s : State) (pkg : Nat) (a x : Dword) : State :=
  let u := regUnit a
  let i := regIdx a
  if u < 0x800 ∧ i = 0 then s.modCore (ckey pkg u) (fun c => { c with tag := if 12 < bits x.toNat 3 0 then c.tag else Fin.ofNat 16 x.toNat })
  else if 0x800 ≤ u ∧ u < 0x820 ∧ i = 0x300 then s.modClu (pkg * 64 + (u - 0x800)) (fun c => { c with csown := csownOf x.toNat })
  else if 0xA00 ≤ u ∧ u ≤ 0xA0C ∧ i < 2048 then s.setLctAt pkg (u - 0xA00) i x
  else s

/-- A write of a register, GWSTART apart; an address that names no register ignores it. -/
def State.regWrite (s : State) (a x : Dword) : State :=
  let u := regUnit a
  let i := regIdx a
  if u < 0x800 then s.coreRegWrite (ckey s.boot.pkg u) i x
  else if u < 0x820 then s.cluRegWrite (s.boot.pkg * 64 + (u - 0x800)) i x
  else if 0x880 ≤ u ∧ u < 0x884 then s.svcRegWrite (ckey s.boot.pkg (2048 + (u - 0x880))) i x
  else if u = 0x8C0 then s.ioRegWrite i x
  else if 0x900 ≤ u ∧ u < 0x904 then s.dieRegWrite (s.boot.pkg * 4 + (u - 0x900)) i x
  else if 0xA00 ≤ u ∧ u ≤ 0xA0C ∧ i < 2048 then s.setLct (u - 0xA00) i x
  else if 0xA80 ≤ u ∧ u < 0xA98 then s.linkRegWrite (u - 0xA80) i x
  else s

/-- A write of any register, GWSTART included (R370). -/
def Eng.regWrite (a x : Dword) : Eng Unit :=
  let u := regUnit a
  if 0xA80 ≤ u ∧ u < 0xA98 ∧ regIdx a = 0x208 then Eng.gwStart (u - 0xA80) x
  else modify (fun s => s.regWrite a x)

end Sys2Proof.Machine
end

