-- ==== Sys2Proof/Machine/SlotI.lean ====
section
/-! DEFINITION. PRD, PWR, SLOTSV, SLOTLD, HALTAT, FLUSHTK, PTAGSET, and the steps of a stop (R294 to R296, R319, R325, R329, R336). -/

namespace Sys2Proof.Machine

/-! ## Registers (R289, R294) -/

/-- PRD (R294). -/
def execPrd (d r : Fin 24) (s : State) : Host.Outcome State Fault Refusal :=
  finish s (s.privileged (fun s => do
    let a ← readG s r
    if ¬ regAddrOk a then .error (.trap 0x01 (s.baseIllegal 10))
    else
      let (s, x) := s.regRead a
      done (s.gives d x)))

/-- PWR (R294). -/
def execPwr (d r : Fin 24) (s : State) : Host.Outcome State Fault Refusal :=
  finish s (s.privileged (fun s => do
    let a ← readG s d
    let x ← readG s r
    if ¬ regAddrOk a then .error (.trap 0x01 (s.baseIllegal 10))
    else Eng.forPriv s (Eng.regWrite a x) (fun s _ => done s) done))

/-! ## Slots (R294, R295) -/

/-- A negative result of a privileged instruction. -/
def answer (s : State) (d : Fin 24) (x : Int) : Eff := done (s.gives d (BitVec.ofInt 64 x))

/-- The core and slot a slot address names (R294). -/
def State.slotOf (s : State) (a : Dword) : Option (Nat × Nat) :=
  if bits a.toNat 63 43 = 0 ∧ bits a.toNat 31 5 = 0 then some (ckey s.boot.pkg (bits a.toNat 42 32), bits a.toNat 4 0) else none

/-- A thread can be taken from its slot: its accesses have performed and returned, its waiting engine instruction has posted
(R295, R329). -/
def State.takeable (s : State) (t : Thread) : Bool :=
  s.drained t.uid && s.returned t.uid &&
    (match t.wait with | .mail .spawn | .mail .engine => false | _ => !t.midway) &&
    (match t.ctl with | .haltReq .debug | .stopReq => false | _ => true)

/-- A context as it is saved: at its group boundary, in no wait (R295, R319). -/
def Thread.saved (t : Thread) : Thread :=
  { t with ctl := .run, fbuf := none, gwait := none, trail := [], poisoned := none, wait := match t.wait with | .starting => .starting | _ => .ready }

/-- SLOTSV of a thread: it stops, it is written to the granary, its slot is freed (R295). -/
def slotsvEff (s : State) (d : Fin 24) (c n : Nat) (t : Thread) : Eff :=
  let run : Bool := match t.ctl with | .run => true | _ => false
  let s1 := if run then s.modThread c n (fun t => { t with ctl := .saveReq }) else s
  if ¬ s.takeable t then .error (.wait s1 .drain)
  else
    let k := cluOf c
    let p := (s.core c).tag.val
    match s.freePlace k p with
    | none => answer (s.modThread c n (fun t => { t with ctl := match t.ctl with | .saveReq => .run | x => x })) d (-2)
    | some place =>
      let v : Saved := {
        ctx := t.saved, core := c, slot := n, set := 0, part := p, kind := 1, sealed := !s.engineBusy t.uid, written := false
        age := s.counter }
      if s.mayStore k place v = false then .error (.wait (s1.askRoom k place v) .drain)
      else
        let s := ((s.storePlace k place v).modCore c (fun x => { x with slots := mdel n x.slots })).settle c
        done (s.gives d (contextId p k place))

/-- SLOTSV (R294, R295). -/
def execSlotsv (d r : Fin 24) (s : State) : Host.Outcome State Fault Refusal :=
  finish s (s.privileged (fun s => do
    let a ← readG s r
    match s.slotOf a with
    | none => answer s d (-1)
    | some (c, n) => match s.thread? c n with
      | none => answer s d (-1)
      | some t => slotsvEff s d c n t))

/-- The claim of a context's node on a core: whether the image is in place; none where the core does not hold it. -/
def State.claimOf (s : State) (c : Nat) (t : Thread) : Option Bool :=
  match t.node with
  | none => some true
  | some nid => ((s.core c).claims.find? (fun k => k.node == nid && k.attempt == t.attempt)).map (fun k => k.ready)

/-- SLOTLD of one context: place n of cluster k, into slot m of core c (R295, R325). -/
def Eng.slotld (c m k n : Nat) (x : Saved) : Eng Int := do
  match ← Eng.readContext k n x with
  | .absent => pure (-2)
  | f => do
    let s ← get
    match s.claimOf c x.ctx with
    | none => pure (-4)
    | some ready => match f with
      | .image b => do
        modify (fun s => (s.freePlaceAt k x.part n).loadThread c m (restoredThread x b (ready && x.ctx.wait != .starting)))
        pure 0
      | .lost d => do
        Eng.loseContext k n x d
        pure (-3)
      | .absent => pure (-2)

/-- The place an id names, for a core: the partition, which must be the core's, the cluster, the number (R321). -/
def State.placeNamed (s : State) (c : Nat) (id : Dword) : Option (Nat × Nat × Nat) :=
  let x := id.toNat
  let p := bits x 51 48
  if bits x 63 52 ≠ 0 ∨ bits x 47 45 ≠ 0 ∨ bits x 39 32 ≠ 0 ∨ p ≠ (s.core c).tag.val then none
  else some (p, s.boot.pkg * 64 + bits x 44 40, bits x 31 0)

/-- The context an id names, for a core: its cluster, its place (R321). -/
def State.contextOf (s : State) (c : Nat) (id : Dword) : Option (Nat × Nat × Saved) :=
  match s.placeNamed c id with
  | none => none
  | some (p, k, n) => match mfind (placeKey p n) (s.clu k).places with
    | some v => if v.kind = 3 then none else some (k, n, v)
    | none => none

/-- The place an id names for a core holds no context that the device has a record of: its region is looked at (R321). -/
def State.regionOf (s : State) (c : Nat) (id : Dword) : Option (Nat × Nat × Nat) :=
  (s.placeNamed c id).filter (fun e => decide (e.2.2 < s.granSize e.2.1 e.1) && (mfind (placeKey e.1 e.2.2) (s.clu e.2.1).places).isNone)

/-- The level indices that the row-major id of an origin thread stands for (R55, R320). -/
def originIndices (l : Launch) (id : Nat) : List Nat :=
  if l.levels = [] then [0]
  else (l.levels.foldr (fun v (a : List Nat × Nat) =>
    if v.domain = 5 then (0 :: a.1, a.2) else (a.2 % v.extent :: a.1, a.2 / v.extent)) ([], id)).1

/-- A thread at the level indices of its origin (R55, R320). -/
def State.inLevels (s : State) (t : Thread) : Thread :=
  match s.launchOf t.node with
  | some l => { t with lvIdx := originIndices l t.origin, lvExt := if l.levels = [] then [1] else l.levels.map (·.extent) }
  | none => t

/-- What a descriptor d in partition p's region says of a context that the device has no record of: its thread, its node where that node
stands, the core and slot it was saved from (R322). -/
def State.descSaved (s : State) (p d : Nat) : Saved :=
  let nid := bits d 255 224 * 4096 + bits d 223 208
  { ctx := {
      tid := bits d 191 152, node := (s.nodeOf nid).map (fun _ => nid)
      attempt := ((s.nodeOf nid).map (fun e => e.2.2.attempt)).getD 0 }
    core := ckey s.boot.pkg (bits d 207 197), slot := bits d 196 192, set := BitVec.ofNat 64 (bits d 127 64), part := p
    kind := bits d 2 1, sealed := true, written := true, age := 0 }

/-- The half of descriptor n of partition p that names its thread and node, bits [255:128]; 0 where it cannot be read either (entry 85). -/
def Eng.descNames (k p n : Nat) : Eng Nat := do
  let s ← get
  match ← Eng.soft (Eng.rdBuf (granReq k) (globRa (s.descVa k p n + 16)) 16) with
  | .ok b => pure (leNat b * 2 ^ 128)
  | .error _ => pure 0

/-- SLOTLD of a context that the device has no record of and whose descriptor in partition p's region says that it is there: one saved
before a reset, which fails its check, or one that the service has put there; one whose descriptor cannot be read is lost (R321, R324, R325,
entry 85). -/
def Eng.slotldRegion (c m p k n : Nat) : Eng Int := do
  match ← Eng.soft (Eng.getDesc k p n) with
  | .error _ => do
    let d ← Eng.descNames k p n
    let s ← get
    Eng.loseContext k n { s.descSaved p d with kind := 1 } none
    pure (-3)
  | .ok d =>
    if ¬ bitAt d 0 ∨ bits d 2 1 = 0 ∨ bits d 2 1 = 3 then pure (-2)
    else do
      let s ← get
      let x := s.descSaved p d
      match ← Eng.readContext k n x with
      | .absent => pure (-2)
      | .lost d => do
        Eng.loseContext k n x d
        pure (-3)
      | .image b => do
        match s.claimOf c (restoreImage x.ctx b) with
        | none => pure (-4)
        | some ready => do
          let u := restoredThread x b ready
          modify (fun s => ({ s with nextUid := s.nextUid + 1 } : State).loadThread c m (s.inLevels { u with uid := s.nextUid }))
          Eng.wrBuf (granReq k) (globRa (s.descVa k p n)) (freeDesc x)
          pure 0

/-- SLOTLD of a whole save set (R333). -/
def restoreEff (s : State) (d : Fin 24) (id : Dword) : Eff :=
  let p := id.toNat % 2 ^ 63
  match mfind p s.sets with
  | none => answer s d (-2)
  | some set =>
    let cs := (set.cores.map (fun e => e.1)) ++ set.ctxs.filterMap (fun e => (s.setContext p e).map (fun x => x.core))
    if cs.any (fun c => (s.core c).tag.val != p || !(s.core c).slots.isEmpty || !(s.core c).arrq.isEmpty) then answer s d (-1)
    else Eng.forPriv s (Eng.restoreSet p set) (fun s x => answer s d x) (fun s => answer s d (-3))

/-- SLOTLD of one context (R295): it waits until the thread's engine operations have finished, and the image is then sealed. -/
def slotldEff (s : State) (d : Fin 24) (c m : Nat) (id : Dword) : Eff :=
  if (s.thread? c m).isSome then answer s d (-1)
  else match s.contextOf c id with
    | none => (match s.regionOf c id with
      | none => answer s d (-2)
      | some (p, k, n) => Eng.forPriv s (Eng.slotldRegion c m p k n) (fun s r => answer s d r) (fun s => answer s d (-3)))
    | some (k, n, x) =>
      if ¬ x.sealed then
        (if s.engineBusy x.ctx.uid then .error (.wait s .drain)
         else .error (.wait (s.storePlace k n { x with sealed := true }) .drain))
      else Eng.forPriv s (Eng.slotld c m k n x) (fun s r => answer s d r) (fun s => answer s d (-3))

/-- SLOTLD (R294, R295, R333). -/
def execSlotld (d r : Fin 24) (s : State) : Host.Outcome State Fault Refusal :=
  finish s (s.privileged (fun s => do
    let a ← readG s d
    let id ← readG s r
    if a = 0 ∧ bitAt id.toNat 63 then restoreEff s d id
    else match s.slotOf a with
      | none => answer s d (-1)
      | some (c, m) => slotldEff s d c m id))

/-! ## Tenant stops (R296, R329, R332) -/

/-- The partition tag of a register, 1 to 12. -/
def tenantOf (x : Dword) : Option Nat := if 1 ≤ x.toNat ∧ x.toNat ≤ 12 then some x.toNat else none

/-- The armed stops. -/
def State.setStops (s : State) (l : List Stop) : State := { s with stops := l }

/-- Apply f to every core of a partition. -/
def State.modPart (s : State) (p : Nat) (f : Core → Core) : State :=
  { s with cores := s.cores.map (fun (e : Nat × Core) => if e.2.tag.val = p then (e.1, f e.2) else e) }

/-- The armed cycle of a partition's stop has come (R296). -/
def State.stopCome (s : State) (p : Nat) : Bool := s.stops.any (fun x => x.part == p && (x.fired || decide (x.cycle ≤ s.counter)))

/-- Disarm a stop whose cycle has not come: parked threads go on, their checkpoint numbers discarded (R296, R337). -/
def State.disarm (s : State) (p : Nat) : State :=
  if ¬ s.stopPending p ∨ s.stopCome p then s
  else (s.setStops (s.stops.filter (fun x => x.part != p || x.fired))).modPart p (fun (c : Core) => { c with
    stoppend := false
    slots := c.slots.map (fun (e : Nat × Thread) => (e.1,
      match e.2.ctl with
      | .halted .checkpoint => { e.2 with ctl := .run, chk := none }
      | _ => e.2)) })

/-- Arm a stop at a cycle, in place of one whose cycle has not come (R296). -/
def State.arm (s : State) (p cycle : Nat) : State :=
  if s.stopCome p then s
  else (s.setStops (s.stops.filter (fun x => x.part != p) ++ [{ part := p, cycle := cycle, fired := false }])).modPart p
    (fun c => { c with stoppend := true })

/-- HALTAT (R296). -/
def execHaltat (d r : Fin 24) (s : State) : Host.Outcome State Fault Refusal :=
  finish s (s.privileged (fun s => do
    let t ← readG s d
    let x ← readG s r
    match tenantOf t with
    | none => answer s d (-1)
    | some p =>
      if x = 0 then done ((s.disarm p).gives d 0)
      else
        let c := max x.toNat (s.counter + 64)
        done ((s.arm p c).gives d (BitVec.ofNat 64 c))))

/-- TENANT_STOP: the armed cycle of partition p has come (R296). -/
def execTenantStop (p : Nat) (s : State) : Host.Outcome State Fault Refusal :=
  event s (
    if ¬ s.stops.any (fun x => x.part == p && !x.fired && decide (x.cycle ≤ s.counter)) then none
    else
      let s := s.setStops (s.stops.map (fun x => if x.part = p then { x with fired := true } else x))
      some (s.modPart p (fun c =>
        let c : Core := { c with slots := c.slots.map (fun (e : Nat × Thread) => (e.1,
          match e.2.ctl with
          | .run => { e.2 with ctl := .haltReq .tenant }
          | _ => e.2)) }
        { c with halted := c.allHalted })))

/-- A thread that a tenant stop halts: at its boundary, inside its wait; a GWTAKE that waits takes no entry (R329, R319, R223). -/
def State.haltThread (s : State) (c n : Nat) : Option State :=
  match s.thread? c n with
  | none => none
  | some t =>
    let due : Bool := match t.ctl with | .haltReq .tenant => true | .run => s.stopFired (s.core c).tag.val | _ => false
    let gw : Bool := s.ports.any (fun e => e.2.gwq.any (fun o => o.iss.uid = t.uid))
    if ¬ due then none
    else if s.drained t.uid ∧ s.returned t.uid ∧
        (gw ∨ (match t.wait with | .mail .spawn | .mail .engine => false | _ => !t.midway) = true) then
      let s := { s with ports := s.ports.map (fun (e : Nat × Port) =>
        (e.1, { e.2 with gwq := e.2.gwq.filter (fun o => o.iss.uid != t.uid) })) }
      let w : Wait := match t.wait with | .starting => if s.imageReady c t then .ready else .starting | _ => .ready
      some ((s.modThread c n (fun t => { t with ctl := .halted .tenant, wait := w })).settle c)
    else none

/-- THREAD_HALT (R329). -/
def execThreadHalt (c n : Nat) (s : State) : Host.Outcome State Fault Refusal := event s (s.haltThread c n)

/-- A debug halt for a context on its way to a core, the n-th of those that stand in no slot: its home entry holds it until it lands (R82,
R87, R336, entry 77). -/
def State.holdHalt (s : State) (c n : Nat) : Option State :=
  ((s.arrivals c)[n]?).bind (fun t => if s.attached (s.core c).tag.val then some (s.modUid t.uid (fun t => { t with heldHalt := true })) else none)

/-- DEBUG_HALT: the thread's accesses have drained; the kind-4 record names its slot (R336). Places from 32 on name the contexts on their
way to the core. -/
def execDebugHalt (c n : Nat) (s : State) : Host.Outcome State Fault Refusal :=
  event s (if 32 ≤ n then s.holdHalt c (n - 32) else match s.thread? c n with
    | none => none
    | some t => match t.ctl with
      | .haltReq .debug =>
        if s.drained t.uid ∧ s.returned t.uid ∧ ¬ t.midway then
          some (((s.modThread c n (fun t => { t with ctl := .halted .debug })).settle c).postRec 4 (s.core c).tag.val (slotAddr c n))
        else none
      | _ => none)

/-- The cores of a partition in this package, in increasing physical index. -/
def State.coresOf (s : State) (p : Nat) : List Nat :=
  (s.cores.filter (fun e => e.2.tag.val == p && pkgOf e.1 == s.boot.pkg)).map (fun e => e.1)

/-- A context of a core of the partition still has engine operations (R323, R332). -/
def State.partBusy (s : State) (cs : List Nat) : Bool :=
  cs.any (fun c => (s.core c).slots.any (fun e => s.engineBusy e.2.uid) || (s.arrivals c).any (fun t => s.engineBusy t.uid))

/-- FLUSHTK of a halted partition: the flush token sweeps its packets, its compute cores are saved in order; the stop ends when all are
(R332). -/
def Eng.flush (p : Nat) (cs : List Nat) : Eng Nat := do
  modify (fun s => s.sweep p)
  let (n, all) ← Eng.saveCores p cs 0
  if all then modify (fun s => s.setStops (s.stops.filter (fun x => x.part != p)))
  pure n

/-- FLUSHTK (R294, R296, R332). -/
def execFlushtk (d : Fin 24) (s : State) : Host.Outcome State Fault Refusal :=
  finish s (s.privileged (fun s => do
    let t ← readG s d
    match tenantOf t with
    | none => answer s d (-1)
    | some p =>
      let all := s.coresOf p
      if all.any (fun c => !(s.core c).halted || !(s.core c).allHalted) then answer s d (-1)
      else
        let cs := all.filter isCompute
        if s.partBusy cs then .error (.wait s .drain)
        else Eng.forPriv s (Eng.flush p cs) (fun s n => answer s d n) (fun s => answer s d 0)))

/-! ## Tags (R294, R358) -/

/-- PTAGSET: the core holds no thread; its stop bits follow the new tag (R290, R294). It answers -1 for a core number of 2048 or more (entry
90) and for a core with a context in its arrival queue (entry 57), the model's choices. -/
def execPtagset (d r : Fin 24) (s : State) : Host.Outcome State Fault Refusal :=
  finish s (s.privileged (fun s => do
    let a ← readG s d
    let x ← readG s r
    let c := ckey s.boot.pkg (a.toNat % 2048)
    let k := s.core c
    if 2048 ≤ a.toNat ∨ ¬ k.slots.isEmpty ∨ ¬ k.arrq.isEmpty then answer s d (-1)
    else if 12 < bits x.toNat 3 0 then answer s d (-3)
    else
      let p := bits x.toNat 3 0
      done ((s.retag c p).gives d 0)))

end Sys2Proof.Machine
end

