-- ==== Sys2Proof/Machine/LinkI.lean ====
section
/-! DEFINITION. Link ports, gateways and flows, the Ultra Ethernet and storage ports, reset, measurement and attestation, power (R366 to
R381). -/

namespace Sys2Proof.Machine

/-! ## Links (R366, R367, R369) -/

/-- LCTL_WRITE (R367). -/
def execLctlWrite (port : Nat) (x : Dword) (s : State) : Host.Outcome State Fault Refusal :=
  event s (if port < 24 then some (s.setLctl port x) else none)

/-- The highest rate both ends permit: 2 for 212 Gb/s, 1 for 106 Gb/s, 0 for none; of the far end's rates bit 0 is 106, bit 1 is
212 (R366, R367). -/
def trainedRate (rate : Nat) (far : BitVec 2) : Nat :=
  if 2 ≤ rate ∧ far.getLsbD 1 then 2 else if (rate = 1 ∨ rate = 3) ∧ far.getLsbD 0 then 1 else 0

/-- LINK_TRAINED: the far end reports its package; the link is up or refused (R367). A link that is down trains as one whose LCTL was
written does (entry 78). -/
def execLinkTrained (port seen : Nat) (farRates : BitVec 2) (s : State) : Host.Outcome State Fault Refusal :=
  event s (
    let p := s.port port
    let r := trainedRate p.rate farRates
    if 2 ≤ p.lstate ∨ 64 ≤ seen ∨ r = 0 then none
    else if seen ≠ p.peer then some (s.setPort port { p with seen := seen, lstate := 3, lrate := 0 })
    else some (s.setPort port { p with seen := seen, lstate := 2, lrate := r }))

/-- LINK_DOWN (R369). -/
def execLinkDown (port : Nat) (s : State) : Host.Outcome State Fault Refusal :=
  event s (if (s.port port).lstate = 2 then some (s.linkState port 0) else none)

/-- FLIT_REPLAY (R366, R367). -/
def execFlitReplay (port : Nat) (s : State) : Host.Outcome State Fault Refusal :=
  event s (if (s.port port).lstate = 2 then
    some (s.modPort port (fun p => { p with replays := min (2 ^ 32 - 1) (p.replays + 1) })) else none)

/-! ## Gateways (R370 to R372) -/

/-- GWSTART_WRITE (R370). -/
def execGwstartWrite (port : Nat) (x : Dword) (s : State) : Host.Outcome State Fault Refusal :=
  event s (if port < 24 then
    (match s.flow (.gwstartWrite port x) (Eng.gwStart port x) with
     | .done s _ | .refused s _ | .waits s => some s)
    else none)

/-- GWDATA_READ (R370). -/
def execGwdataRead (port : Nat) (s : State) : Host.Outcome State Fault Refusal :=
  event s (if port < 24 then
    (let (s, x) := s.gwdataGet (ckey s.boot.pkg (2052 + port))
     some { s with busRead := x })
    else none)

/-- GWDATA_WRITE (R370). -/
def execGwdataWrite (port : Nat) (x : Dword) (s : State) : Host.Outcome State Fault Refusal :=
  event s (if port < 24 then some (s.gwdataPut (ckey s.boot.pkg (2052 + port)) x) else none)

/-- FLOW_OPEN (R372). -/
def execFlowOpen (port p f : Nat) (x : Dword) (s : State) : Host.Outcome State Fault Refusal :=
  event s (if port < 24 ∧ p ≤ 12 ∧ f < 16 ∧ bitAt x.toNat 63 = true then some (s.setFlow port p f x) else none)

/-- FLOW_CLOSE (R372). -/
def execFlowClose (port p f : Nat) (x : Dword) (s : State) : Host.Outcome State Fault Refusal :=
  event s (if port < 24 ∧ p ≤ 12 ∧ f < 16 ∧ bitAt x.toNat 63 = false then some (s.setFlow port p f x) else none)

/-! ## Ultra Ethernet and storage (R374 to R376) -/

/-- The accesses of the I/O die's ports: tag 0's memory, as another agent. -/
def State.ioReq (s : State) : Req :=
  { core := ckey s.boot.pkg 2048, port := s.boot.pkg * 64 + 32, tag := 0, thr := false, kind := 3, unit := 0, uid := 0, id := 4 }

/-- A packet from outside, or a request of the storage device, that waits in a port's packet buffer. -/
def Waiter.packet (w : Waiter) : Bool :=
  match w.who with
  | .uePacketReceive _ _ | .inboundDma _ => true
  | _ => false

/-- A buffered packet that may go on stands behind one that may go on too and that the port took before it (R349). -/
def State.packetBehind (s : State) (who : Instr) : Bool :=
  s.waits.any (fun w => w.who == who) &&
    (s.waits.takeWhile (fun w => w.who != who)).any (fun w => w.packet && !w.paused)

/-- A packet from outside acts on tag 0's memory; buffered ones go on in the order the port took them. On a page that is not resident it
waits in the buffer of its port, where tag 0 has 32 reserved entries and the 96 shared ones; one that finds no entry stays at its source
(R348, R349, entry 79). -/
def State.packet (s : State) (who : Instr) (e : Req → Eng Unit) : Option State :=
  if s.packetBehind who then none
  else match s.flow who (fun s => e s.ioReq s) with
    | .done s _ | .refused s _ => some s
    | .waits s' =>
      if s'.waits.any (fun w => w.who == who && w.paused) ∧ 128 ≤ s.waits.countP (fun w => w.packet && w.paused)
        then some { s' with waits := s.waits } else some s'

/-- An operation of the semantic sublayer on tag 0's memory (R374, R375). -/
def ueRun (op : UeOp) (r : Req) : Eng Unit :=
  match op with
  | .send va data | .write va data => Eng.wrBuf r (globRa va) data
  | .read va n => do let _ ← Eng.rdBuf r (globRa va) n; pure ()
  | .amo op va n v => do let _ ← Eng.acc r (globRa va) n (.amo op v.toNat); pure ()
  | .cas va n e v => do let _ ← Eng.acc r (globRa va) n (.cas e.toNat v.toNat); pure ()

/-- An operation within the limits of R374: a message of 1 byte to 2^32 − 1; an atomic of 4 or 8 bytes, aligned (entry 79). -/
def ueOk : UeOp → Bool
  | .send _ data | .write _ data => decide (1 ≤ data.length ∧ data.length < 2 ^ 32)
  | .read _ n => decide (1 ≤ n ∧ n < 2 ^ 32)
  | .amo _ va n _ | .cas va n _ _ => decide ((n = 4 ∨ n = 8) ∧ va % n = 0)

/-- An earlier ordered packet of the same endpoint and association still waits (R374). -/
def State.ueBehind (s : State) (port ep assoc : Nat) (who : Instr) : Bool :=
  s.waits.any (fun w => w.who != who && (match w.who with
    | .uePacketReceive port' (.reliable ordered ep' assoc' _) => ordered && port' == port && ep' == ep && assoc' == assoc
    | _ => false))

/-- UE_PACKET_RECEIVE: an operation of a supported part acts on tag 0's memory, ordered packets in their order; an unsupported packet is
dropped and counted. Endpoints, associations, messages and outstanding operations keep the limits of R374 (R374, R375). -/
def execUePacketReceive (port : Nat) (pkt : UePacket) (s : State) : Host.Outcome State Fault Refusal :=
  event s (
    if 8 ≤ port ∨ mget 0 port s.boot.ue = 0 then none
    else match pkt with
      | .reliable ordered ep assoc op =>
        let who : Instr := .uePacketReceive port pkt
        let out := s.waits.countP (fun w => match w.who with | .uePacketReceive p _ => p == port | _ => false)
        if 4096 ≤ ep ∨ 1024 ≤ assoc ∨ ¬ ueOk op ∨ 65536 ≤ out ∨ (ordered ∧ s.ueBehind port ep assoc who) then none
        else s.packet who (ueRun op)
      | .unsupported => some { s with ueDrop := mset 0 port (mget 0 port s.ueDrop + 1) s.ueDrop })

/-- STORAGE_PORT_TRAIN: the port trains to the lower generation and the fewer lanes of its two ends, within the record's cap (R376). -/
def execStoragePortTrain (gen lanes : Nat) (s : State) : Host.Outcome State Fault Refusal :=
  event s (if 4 ≤ gen ∧ gen ≤ 6 ∧ (lanes = 1 ∨ lanes = 2 ∨ lanes = 4 ∨ lanes = 8) then
    some { s with
      storage := (min gen s.boot.storGen, min lanes s.boot.storLanes), boot := { s.boot with storFar := (gen, lanes) } } else none)

/-- Tag 0's page table maps every byte from va with a right, or a page of it is not resident and is requested first (R344, R376). -/
def State.dmaMapped (s : State) (va n right : Nat) : Bool :=
  (List.range ((va % 65536 + n + 65535) / 65536)).all (fun i =>
    match s.walk 0 ((va / 65536 + i) * 65536) with
    | .leaf x _ => pteRights x &&& right != 0
    | .absent _ _ => true
    | _ => false)

/-- An inbound DMA access outside tag 0's page table: dropped, with a kind-6 record of owner 0 whose other fields are free (R376,
entry 7). -/
def State.dropDma (s : State) : State :=
  let (f, s) := s.freeW
  let x := f.toNat
  s.postRec 6 0 (bits x 51 50 * 2 ^ 50 + bits x 45 35 * 2 ^ 35 + bits x 24 0)

/-- INBOUND_DMA (R376). -/
def execInboundDma (req : DmaReq) (s : State) : Host.Outcome State Fault Refusal :=
  event s (
    match req with
    | .write va data =>
      if s.dmaMapped va data.length 4 then s.packet (.inboundDma req) (fun r => Eng.wrBuf r (globRa va) data)
      else some (s.dropWaiter (.inboundDma req)).dropDma
    | .read va n =>
      if s.dmaMapped va n 8 then s.packet (.inboundDma req) (fun r => do let _ ← Eng.rdBuf r (globRa va) n; pure ())
      else some (s.dropWaiter (.inboundDma req)).dropDma)

/-! ## Measurement and attestation (R380) -/

/-- MEXT_WRITE (R380). -/
def execMextWrite (x : Dword) (s : State) : Host.Outcome State Fault Refusal := .next (s.extendLog x)

/-- ASIGN_WRITE (R380). -/
def execAsignWrite (x : Dword) (s : State) : Host.Outcome State Fault Refusal := .next (s.startAttestation x)

/-- ATTESTATION_DONE: the log and the signature stand in the buffer (R380). -/
def execAttestationDone (s : State) : Host.Outcome State Fault Refusal :=
  event s (
    if s.boot.astat ≠ 1 then none
    else
      let log := s.boot.log.flatten
      let nonce := s.boot.anonce.toList.flatMap (fun w => natLE w.toNat 8)
      let sig := padTo 49856 (Config.attestationSignature (shake256 (log ++ nonce) 64))
      let a := s.boot.asign.toNat
      let kns := if a + 57344 ≤ Config.knsBytes then wrBytes s.kns (knsKey s.boot.pkg a) (log ++ sig) else s.kns
      some { s with kns := kns, boot := { s.boot with astat := 2 } })

/-! ## Power (R381) -/

/-- POWER_LIMIT (R381). -/
def execPowerLimit (s : State) : Host.Outcome State Fault Refusal := .next { s with idle := true }

/-- POWER_BELOW_LIMIT (R381). -/
def execPowerBelowLimit (s : State) : Host.Outcome State Fault Refusal := .next { s with idle := false }

/-! ## Reset (R377 to R379) -/

/-- The fields and checks of a configuration record (R378). Bit 3 of byte 176, which R378 neither names nor calls zero, is not looked at
(entry 80). -/
def recordOk (m : Memory) : Bool :=
  let b (i : Nat) : Nat := (rdB m i).toNat
  let zero (lo hi : Nat) : Bool := (mslice lo hi m).isEmpty
  decide (rdLE m 0 8 = 0x31474643425A) && decide (rdBytes m 8 64 = Config.identityDigest) &&
    decide (b 72 ≤ 63 ∧ 1 ≤ b 73 ∧ b 73 ≤ 64) && zero 74 80 &&
    (List.range 64).all (fun k => decide (b (104 + k) < 32 ∧ (b (104 + k) < 24 ∨ b (104 + k) = 31))) &&
    (List.range 8).all (fun k => decide (b (168 + k) < 4)) &&
    decide (4 ≤ b 176 % 8 ∧ b 176 % 8 ≤ 6) && [1, 2, 4, 8].contains (b 176 / 16) && zero 177 180 &&
    decide (1 ≤ rdLE m 180 4 ∧ rdLE m 180 4 ≤ 2600) && decide (70 ≤ rdLE m 184 2 ∧ rdLE m 184 2 ≤ 105) && zero 186 1024

/-- The boot controller's fields loaded from a record (R378, R379). -/
def Boot.load (b : Boot) (m : Memory) : Boot :=
  let v (i : Nat) : Nat := (rdB m i).toNat
  { b with
    pkg := v 72, domain := v 73
    routes := (List.range 64).foldl (fun r k => if v (104 + k) = 31 then r else mput k (v (104 + k)) r) []
    ue := (List.range 8).foldl (fun r k => mset 0 k (v (168 + k) % 4) r) []
    storGen := v 176 % 8, storLanes := v 176 / 16, power := rdLE m 180 4, temp := rdLE m 184 2 }

/-- Link port n of a record; its link is down until it trains (R367, R378). -/
def portOf (x : Nat) : Port := { rate := x / 64 % 4, peer := x % 64 }

/-- The memory of a package under another number: what it holds keeps its place in the package. -/
def moveKns (m : Memory) (old new : Nat) : Memory :=
  if old = new then m
  else ((mslice (knsKey old 0) (knsKey (old + 1) 0) m).map (fun (e : Nat × Byte) => (e.1 % 2 ^ 48, e.2))).foldl
    (fun (m : Memory) e => wrB m (knsKey new e.1) e.2) (mclear (knsKey old 0) (knsKey (old + 1) 0) m)

/-- Every core in reset: registers, queues, engines and tables at their reset values; memories keep what they hold (entry 13). The storage
port has trained without a cap (R376, R379). -/
def State.inReset (s : State) (pkg : Nat) : State :=
  let z := State.reset
  { z with
    cores := (s.cores.filter (fun e => !e.2.mem.isEmpty)).map (fun (e : Nat × Core) => (ckey pkg (idxOf e.1), { mem := e.2.mem }))
    clusters := (s.clusters.filter (fun e => !e.2.mem.isEmpty)).map (fun (e : Nat × Cluster) =>
      (pkg * 64 + cluIdx e.1, { mem := e.2.mem }))
    kns := moveKns s.kns s.boot.pkg pkg, bad := s.bad
    boot := { s.boot with
      halt := none, log := [], logFull := false, mdig := z.boot.mdig, anonce := z.boot.anonce, asign := 0, astat := 0 }
    storage := (min 6 s.boot.storFar.1, min 8 s.boot.storFar.2)
    resets := s.resets + 1, moves := s.moves, nextUid := s.nextUid, free := s.free, busRead := s.busRead }

/-- The boot controller halts: no core leaves reset (R379). -/
def State.halted (s : State) (code : Nat) : State := { s with boot := { s.boot with halt := some code } }

/-- Reset, its four steps (R379). -/
def State.reboot (s : State) : State :=
  let b := s.boot
  let rec_ := rdBytes b.record 0 1024
  let z := s.inReset b.pkg
  if ¬ b.dirOk then z.halted 1
  else if ¬ Config.rootSignatureOk rec_ (rdBytes b.record 1024 29792) ∨ ¬ recordOk b.record then z.halted 2
  else
    let stage := rdBytes b.stage 0 b.stageLen
    let log := bootLog (rdBytes b.record 0 recordBytes) stage
    if ¬ Config.rootSignatureOk stage b.stageSig then { z with boot := { z.boot with log := log } }.halted 3
    else
      let s := s.inReset (rdB b.record 72).toNat
      let boot := { s.boot.load b.record with log := log }
      let c := ckey boot.pkg 2048
      let s := { s with
        boot := boot
        ports := (List.range 24).foldl (fun m n => mset {} n (portOf (rdB b.record (80 + n)).toNat) m) []
        storage := (min s.storage.1 boot.storGen, min s.storage.2 boot.storLanes) }
      (s.modCore c (fun k => { k with mem := wrBytes k.mem 0 (stage.take 0x80000) })).setThread c 0 { bootThread with uid := s.nextUid }

/-- DEVICE_RESET (R379). -/
def execDeviceReset (s : State) : Host.Outcome State Fault Refusal :=
  let s := s.reboot
  .next { s with nextUid := s.nextUid + 1 }

/-- THERMAL_TRIP: the package enters reset and the boot controller halts with code 4 (R381). -/
def execThermalTrip (s : State) : Host.Outcome State Fault Refusal := .next ((s.inReset s.boot.pkg).halted 4)

end Sys2Proof.Machine
end

