-- ==== Sys2Proof/Machine/Net.lean ====
section
/-! DEFINITION. The steps of relaxed accesses on their way: the memory port, the router's ejection check, the bank, the reply (R90
to R100, R344, R354), and entries on the links (R45). -/

namespace Sys2Proof.Machine

/-- Who makes piece j of an access. -/
def Access.req (a : Access) (j : Nat := 0) : Req :=
  { core := a.iss.core, port := cluOf a.iss.core, tag := a.iss.tag, thr := true, kind := 4, unit := idxOf a.iss.core, uid := a.iss.uid,
    id := 1 + 64 * a.issued + j }

/-- The bytes of the access that a piece belongs to: an element is one of its own (R91, R197). -/
def Access.size (a : Access) (p : Piece) : Nat := if a.elems then p.n else a.pieces.foldl (fun n q => n + q.n) 0

/-- The piece j of access i. -/
def State.piece? (s : State) (i j : Nat) : Option (Access × Piece) :=
  match s.net[i]? with
  | some a => (a.pieces[j]?).map (fun p => (a, p))
  | none => none

/-- Change access i. -/
def State.modNet (s : State) (i : Nat) (f : Access → Access) : State :=
  match s.net[i]? with
  | some a => { s with net := lset s.net i (f a) }
  | none => s

/-- Replace the piece j of access i. -/
def State.setPiece (s : State) (i j : Nat) (p : Piece) : State := s.modNet i (fun a => { a with pieces := lset a.pieces j p })

def Piece.isDone (p : Piece) : Bool := match p.stage with | .done _ => true | _ => false
def Piece.isFailed (p : Piece) : Bool := match p.stage with | .failed _ => true | _ => false

/-- An element is issued once every ordinary one before it is performed (R197). -/
def Access.elemTurn (a : Access) (j : Nat) : Bool := !a.elems || (a.pieces.take j).all (fun q => !q.ord || q.isDone)

/-- An ordinary piece has failed: the instruction traps, and no further one is performed (R10). -/
def Access.refused (a : Access) : Bool := a.pieces.any (fun q => q.ord && q.isFailed)

/-- The ordinary pieces are performed, or one has failed (R91). -/
def Access.ordEnds (a : Access) : Bool := a.refused || a.pieces.all (fun q => !q.ord || q.isDone)

/-- Pieces of the thread that go before piece j of access i at its bank, of those that p tells: of earlier accesses, and earlier elements
of its own instruction. RLX.A is unordered; an ordinary access waited for earlier ones when it issued (R95, R96, R197). -/
def State.noneBefore (s : State) (i j : Nat) (a : Access) (x : Piece) (p : Piece → Bool) : Bool :=
  let clear (b : Access) (q : Piece) : Bool := !p q || !(q.ord || clsOrders (b.pieceCls q)) ||
    !s.pieceBank (cluOf a.iss.core) a.iss.tag x.loc x.n q
  a.pieceCls x == .rlxa ||
    ((x.ord || (s.net.take i).all (fun b => b.iss.uid != a.iss.uid || b.pieces.all (clear b))) &&
      (!a.elems || (a.pieces.take j).all (clear a)))

/-- The order of the bank lets the piece be performed: what goes before it there is performed (R95, R197). -/
def State.inOrder (s : State) (i j : Nat) (a : Access) (x : Piece) : Bool :=
  a.elemTurn j && s.noneBefore i j a x (fun q => !q.finished)

/-- A piece may leave its port: what goes before it at its bank has left it (R40, R95). -/
def State.portTurn (s : State) (i j : Nat) (a : Access) (x : Piece) : Bool :=
  a.elemTurn j && s.noneBefore i j a x (fun q => match q.stage with | .sent | .held _ => true | _ => false)

/-- A write to the frame's line that has passed the port and is not yet performed: an RLX.C load waits for it at the port (R98). -/
def State.lineBusy (s : State) (port pkg pa : Nat) : Bool :=
  s.net.any (fun b => cluOf b.iss.core == port && b.pieces.any (fun q =>
    opWrites q.op && (match q.stage, q.phys with | .arrived, some (g, x) => g == pkg && x / 64 == pa / 64 | _, _ => false)))

/-- The value n bytes have in a buffered line, for a thread that has not read them later at the bank (R98). -/
def State.buffered (s : State) (port p va n uid : Nat) : Option Nat :=
  ((s.clu port).rbuf.find? (fun e => e.part = p ∧ e.line = va / 64 ∧
    (List.range 8).all (fun k => !e.todo.contains k || decide (va % 64 + n ≤ 8 * k) || decide (8 * k + 8 ≤ va % 64)) ∧
    e.seen.all (fun x => x.1 != uid || x.2 &&& (fullMask n * 2 ^ (va % 64)) == 0))).map (fun e =>
    e.data.toNat / 2 ^ (8 * (va % 64)) % 2 ^ (8 * n))

/-- A piece pays for the blocks it touches and no piece of its access has paid for; each element of a VGATH or VSCAT is a request of its
own (R362). -/
def State.payPiece (s : State) (i j : Nat) (a : Access) (va n pkg pa : Nat) : Option State :=
  let due := if a.elems then (if a.paid.contains j then [] else blocksOf va n) else (blocksOf va n).filter (fun b => !a.paid.contains b)
  (s.spend (a.req j) pkg pa due.length).map (fun s =>
    s.modNet i (fun a => { a with paid := a.paid ++ (if a.elems then [j] else due) }))

/-- The watchpoint that a piece's access hits: an element's own; that of the whole of another access, found at the first of its pieces
(R335). -/
def State.pieceHit (s : State) (a : Access) (p : Piece) : Option (Nat × Nat) :=
  if a.elems then s.hit? a.req p.loc p.n p.op
  else if a.pieces.any (fun q => match q.stage with | .done _ => true | .arrived => q.phys.isSome | _ => false) then none
  else a.pieces.findSome? (fun q => s.hit? a.req q.loc q.n q.op)

/-- A relaxed access that a watchpoint stops is not performed (R335). -/
def State.stopPieces (s : State) (i j : Nat) : State :=
  s.modNet i (fun a => { a with pieces := ((List.range a.pieces.length).zip a.pieces).map (fun e =>
    if a.elems = false ∨ e.1 = j then { e.2 with stage := .failed 9 } else e.2) })

/-- A piece leaves the memory port: watchpoint, translation, rights, poison, the read buffer, tokens (R98, R335, R344, R362). One that
meets a page that is not there is held and the page requested (R100, R347). -/
def State.portStep (s : State) (i j : Nat) : Option State :=
  match s.piece? i j with
  | some (a, p) =>
    match p.stage, p.loc with
    | .sent, .glob va =>
      if ¬ s.portTurn i j a p then none else
      let r := a.req j
      let held := if s.waitsTokens r then some (s.unwait r) else none
      let s := s.unwait r
      let hit := s.pieceHit a p
      let key := pageKey r.port r.tag va
      if hit.isSome && r.stopped then some (s.stopPieces i j)
      else
        let (w, s) := s.translate r va
        (match w with
         | .error => some (s.setPiece i j { p with stage := .failed 0x0C })
         | .request reason => some ((s.request key reason false).setPiece i j { p with stage := .held key })
         | .absent x big =>
           let (pkg, pa) := leafPhys x big va
           (match s.payPiece i j a va p.n pkg pa with
            | none => some (s.demand r pkg pa)
            | some s => some ((s.request key 0 false).setPiece i j { p with stage := .held key }))
         | .leaf x big =>
           if (pteRights x) &&& (opRight p.op) = 0 then some (s.setPiece i j { p with stage := .failed 0x04 })
           else if ptePoison x then some (s.setPiece i j { p with stage := .failed 0x0B })
           else
             let (pkg, pa) := leafPhys x big va
             let cached := a.pieceCls p == .rlxc && !pteStrong x
             if s.migHeld r.tag va p.op || (cached && (s.lineBusy r.port pkg pa || !s.inOrder i j a p)) then held
             else match (if cached then s.buffered r.port r.tag va p.n a.iss.uid else none) with
               | some v => some ((s.logHit r hit).setPiece i j { p with stage := .done v })
               | none => match s.payPiece i j a va p.n pkg pa with
                 | none => some (s.demand r pkg pa)
                 | some s => some ((s.logHit r hit).setPiece i j { p with stage := .arrived, phys := some (pkg, pa) }))
    | _, _ => none
  | none => none

/-- TRANSLATION_WALK (R344). -/
def execTranslationWalk (i j : Nat) (s : State) : Host.Outcome State Fault Refusal := event s (s.portStep i j)

/-- The router beside the destination checks the packet's tag; the route of another package may be down, the core in no table (R354,
R355, R357, R369). -/
def State.ejectStep (s : State) (i j : Nat) : Option State :=
  match s.piece? i j with
  | some (a, p) =>
    match p.stage, p.loc with
    | .sent, .glob _ => none
    | .sent, l =>
      if ¬ a.elemTurn j then none else
      match s.routePlace a.req l p.n with
      | .to s _ => some (s.setPiece i j { p with stage := .arrived })
      | .fail s c => some (s.setPiece i j { p with stage := .failed c })
      | .page _ _ _ | .again _ _ => none
    | _, _ => none
  | none => none

/-- PACKET_EJECT (R354). -/
def execPacketEject (i j : Nat) (s : State) : Host.Outcome State Fault Refusal := event s (s.ejectStep i j)

/-- The fill of a line by the port: eight pieces of 8 bytes, performed one by one (R91, R98). -/
def State.fillPieces (s : State) (a : Access) (va pkg pa : Nat) : State :=
  { s with
    nextUid := s.nextUid + 1
    net := s.net ++ [{
      iss := { a.iss with uid := s.nextUid }, cls := .rlx, dest := .none, fill := true
      pieces := (List.range 8).map (fun k =>
        { loc := .glob (va / 64 * 64 + 8 * k), n := 8, op := .rd, pos := 8 * k, off := 0, ra := 0, stage := .arrived
          phys := some (pkg, pa / 64 * 64 + 8 * k) }) }] }

/-- Fill the read buffer with the line of an RLX.C load, at once or piece by piece (R91, R98). A line with a bad word is not kept, one of
a strong page never is (R99). -/
def State.fillLine (s : State) (a : Access) (va pkg pa : Nat) : State :=
  let port := cluOf a.iss.core
  if s.badAt pkg (pa / 64 * 64) 64 ∨ (s.peekLeaf port a.iss.tag va).any pteStrong = true then s
  else
    let e : RbLine := {
      part := a.iss.tag, line := va / 64, pkg := pkg, pline := pa / 64
      data := BitVec.ofNat 512 (rdLE s.kns (knsKey pkg (pa / 64 * 64)) 64), todo := if s.cur.split then List.range 8 else [] }
    let s := s.modClu port (fun k => { k with rbuf := k.rbuf.filter (fun x => !(x.part == a.iss.tag && x.line == va / 64)) ++ [e] })
    if s.cur.split then s.fillPieces a va pkg pa else s

/-- A piece of a fill has been read at the bank: it enters its line, if the line is still there; after an error the line is dropped. -/
def State.fillRead (s : State) (port pkg pa : Nat) (v : Option Nat) : State :=
  let k := pa / 8 % 8
  s.modClu port (fun c => { c with rbuf := c.rbuf.filterMap (fun e =>
    if e.pkg = pkg ∧ e.pline = pa / 64 ∧ e.todo.contains k then
      v.map (fun y => { e with
        todo := e.todo.filter (· != k)
        data := setLane 64 e.data k y })
    else some e) })

/-- An ordinary store is refused, by a bad word or a link that is not up, before the first of its pieces is performed, or not at all (R10,
R93, R369): the piece that refuses it. -/
def State.refusing (s : State) (a : Access) : Option Nat :=
  if a.pieces.any (fun q => q.ord && q.isDone) then none
  else findUp a.pieces.length (fun k => match a.pieces[k]? with
    | some q => q.ord && (match q.phys with | some (pkg, pa) => !s.linked pkg || s.badAt pkg pa q.n | none => false)
    | none => false)

/-- A piece of an ordinary store. -/
def Piece.ordStore (p : Piece) : Bool := p.ord && opWrites p.op

/-- A piece of an access to a frame is performed at its bank, and the read buffer of its port follows (R98). -/
def State.knsPiece (s : State) (a : Access) (p : Piece) (va pkg pa : Nat) : Perf :=
  let k := cluOf a.iss.core
  if ¬ s.linked pkg ∧ p.ordStore = false then .fail (if a.fill then s.fillRead k pkg pa none else s) 0x0C
  else match (match ({ s with bad := if p.ordStore then [] else s.bad } : State).bank a.iss.tag (.kns pkg pa) p.n p.op with
    | .ok t v => Perf.ok { t with bad := s.bad } v
    | .fail t c => .fail { t with bad := s.bad } c
    | r => r) with
    | .ok s v =>
      if a.fill then .ok (s.fillRead k pkg pa (some v)) v
      else
        let s := s.rbUpdate k pkg pa p.n v p.op
        .ok (match a.pieceCls p with
          | .rlxc => (s.rbSeen k pkg pa p.n a.iss.uid).fillLine a va pkg pa
          | .rlxa => s
          | _ => if opReads p.op then s.rbSeen k pkg pa p.n a.iss.uid else s) v
    | .fail s c => .fail (if a.fill then s.fillRead k pkg pa none else s) c
    | r => r

/-- Perform a piece that stands at a place that is no frame: a thread's watchpoint stops a relaxed one there (R335). -/
def State.placePiece (s : State) (i j : Nat) (a : Access) (p : Piece) (l : Loc) : State × Option Perf :=
  let hit := if p.ord then none else s.pieceHit a p
  if hit.isSome && a.req.stopped then (s.stopPieces i j, none) else (s, some ((s.logHit a.req hit).bank a.iss.tag l p.n p.op))

/-- The performing point performs a piece (R90, R91). -/
def State.bankStep (s : State) (i j : Nat) : Option State :=
  match s.piece? i j with
  | some (a, p) =>
    match p.stage with
    | .arrived =>
      let settle (r : Perf) : Option State :=
        match r with
        | .ok s v => some (s.setPiece i j { p with stage := .done v })
        | .fail s c => some (s.setPiece i j { p with stage := .failed c })
        | .page _ _ _ | .again _ _ => none
      if ¬ s.inOrder i j a p ∨ (p.ord && a.refused) = true then none
      else match (if p.ordStore then s.refusing a else none) with
      | some k => some (s.modNet i (fun a => { a with pieces := (List.range a.pieces.length).zip a.pieces |>.map (fun e =>
          if e.1 = k then { e.2 with stage := .failed 0x0C } else e.2) }))
      | none => match p.loc, p.phys with
        | .glob va, some (pkg, pa) =>
          (match physLoc pkg pa with
           | .kns pkg pa => settle (s.knsPiece a p va pkg pa)
           | l => match s.routePlace a.req l p.n with
             | .to s l => if a.size p ≠ 8 then settle (.fail s 0x05) else settle (s.bank a.iss.tag l p.n p.op)
             | .fail s c => settle (.fail s c)
             | .page _ _ _ | .again _ _ => none)
        | .glob _, none => none
        | l, _ => match s.placePiece i j a p l with
          | (_, some r) => settle r
          | (s, none) => some s
    | _ => none
  | none => none

/-- BANK_PERFORM (R90). -/
def execBankPerform (i j : Nat) (s : State) : Host.Outcome State Fault Refusal := event s (s.bankStep i j)

/-- The bytes a whole access read. -/
def Access.value (a : Access) : Nat :=
  a.pieces.foldl (fun v p => match p.stage with | .done y => v + y % 2 ^ (8 * p.n) * 2 ^ (8 * p.pos) | _ => v) 0

/-- The first piece that failed. -/
def failureOf (ps : List Piece) : Option (Nat × Dword) :=
  ps.findSome? (fun p => match p.stage with
    | .failed c => some (c, if c = 9 then p.ra else p.off)
    | _ => none)

/-- A reply writes its destination (R94). -/
def Thread.reply (t : Thread) (d : Dest) (x : Nat) : Thread :=
  match d with
  | .none | .gone => t
  | .g r n sx => { t with g := vset t.g r (if sx then BitVec.ofInt 64 (toSigned (8 * n) x) else BitVec.ofNat 64 (x % 2 ^ (8 * n))) }
  | .v r keep => { t with v := vset t.v r ((t.v[r.val] &&& keep) ||| (BitVec.ofNat 512 x &&& ~~~keep)) }
  | .fflg f => { t with fflg := t.fflg ||| f }

/-- The last ordinary piece of an access is performed: the instruction completes, takes its trap, or parks on the page of its next element,
whose group is issued again if the page is there by now; a stopped thread does none of this. The relaxed elements of the instruction go on
as one relaxed access, which takes its register from earlier ones (R91, R93, R197, R207, R317, R318). -/
def State.ordinaryReply (s : State) (i : Nat) (a : Access) (glen : Nat) : State :=
  let away := { s with net := ldel s.net i }
  let rest := if a.pieces.all (fun q => q.ord) then away
    else { s with net := (s.net.take i).map a.yields ++ [{ a with ord := none, park := none }] ++ s.net.drop (i + 1) }
  match s.findUid a.iss.uid with
  | none => away
  | some (c, n) =>
    if (s.thread c n).ctl = .stopReq then rest.modThread c n (fun t => { t with wait := .ready })
    else match failureOf (a.pieces.filter (fun q => q.ord)), a.park with
      | some (cause, v), _ => away.takeTrap c n cause v a.iss.pc a.iss.pc glen false
      | none, some k =>
        (match s.missing (cluOf a.iss.core) k with
         | some reason => (rest.request k reason false).modThread c n (fun t => { t with wait := .parked k })
         | none => rest.modThread c n (fun t => { t with wait := .ready }))
      | none, none => rest.modThread c n (fun t =>
          { (if a.pieces.all (fun q => q.ord) then t.reply a.dest a.value else t) with
            pc := a.iss.pc + BitVec.ofNat 64 (2 * glen), wait := .ready })

/-- The reply of a relaxed access: its destination is written, or its cause is reported before the thread's next issue, and until then
the register stays pending; the reply of a stopped thread is discarded (R94, R100, R211, R317). -/
def State.relaxedReply (s : State) (i : Nat) (a : Access) : State :=
  let away := { s with net := ldel s.net i }
  match s.lookUid a.iss.uid with
  | none => away
  | some t =>
    if t.ctl = .stopReq then away
    else match failureOf a.pieces with
      | some (c, v) =>
        let s := match a.dest with
          | .g _ _ _ | .v _ _ => s.modNet i (fun a => { a with reported := true })
          | _ => away
        s.modUid a.iss.uid (fun t => { t with reports := t.reports ++ [{ cause := c, xpc := a.iss.pc, xval := v }] })
      | none => away.modUid a.iss.uid (fun t => t.reply a.dest a.value)

/-- The reply of a performed access. -/
def State.replyStep (s : State) (i : Nat) : Option State :=
  match s.net[i]? with
  | some a =>
    if a.reported then none
    else match a.ord with
      | some glen => if a.ordEnds then some (s.ordinaryReply i a glen) else none
      | none => if a.performed then some (s.relaxedReply i a) else none
  | none => none

/-- RELAXED_REPLY (R94). -/
def execRelaxedReply (i : Nat) (s : State) : Host.Outcome State Fault Refusal := event s (s.replyStep i)

/-- The report a thread takes before its next issue, of an engine error or of anything else. -/
def State.reportStep (s : State) (c n : Nat) (engine : Bool) : Option State :=
  match s.thread? c n with
  | some t =>
    (match t.reports with
     | r :: _ => if t.atBoundary && (decide (r.cause = 0x0D) == engine) then some (s.takeReport c n) else none
     | [] => none)
  | none => none

/-- RELAXED_FAULT (R100). -/
def execRelaxedFault (c n : Nat) (s : State) : Host.Outcome State Fault Refusal := event s (s.reportStep c n false)

/-- ENGINE_ERROR_REPORT (R217). -/
def execEngineErrorReport (c n : Nat) (s : State) : Host.Outcome State Fault Refusal := event s (s.reportStep c n true)

/-- An entry reaches the incoming queue of a link (R45). -/
def execLinkEntryArrival (c : Nat) (d : Dir) (s : State) : Host.Outcome State Fault Refusal :=
  event s (
    let x := (s.core c).link d
    match x.fly with
    | e :: es => if x.ent.length < 8 then some (s.modCore c (fun k => k.setLink d { x with ent := x.ent ++ [e], fly := es })) else none
    | [] => none)

/-- A read buffer evicts a line (R98). -/
def execReadBufferEviction (k i : Nat) (s : State) : Host.Outcome State Fault Refusal :=
  event s (if i < (s.clu k).rbuf.length then some (s.modClu k (fun x => { x with rbuf := ldel x.rbuf i })) else none)

end Sys2Proof.Machine
end

