-- ==== Sys2Proof/Machine/PageI.lean ====
section
/-! DEFINITION. PGINV, PGRESUME, page requests and wakes, migration (R294, R318, R319, R345 to R353). -/

namespace Sys2Proof.Machine

/-! ## Translations (R294, R345) -/

/-- Drop a partition's translations for the page of an address, or for all its pages, with the buffered lines of those pages, at every
port of the package (R98, R294). -/
def State.dropTlb (s : State) (p : Nat) (va : Option Nat) : State :=
  let tlb (e : TlbEntry) : Bool := e.part == p &&
    (match va with | none => true | some a => e.page == (if e.big then a / 2 ^ 25 else a / 2 ^ 16))
  let line (e : RbLine) : Bool := e.part == p && (match va with | none => true | some a => e.line / 1024 == a / 2 ^ 16)
  { s with clusters := s.clusters.filterMap (fun (e : Nat × Cluster) =>
      if cluPkg e.1 ≠ s.boot.pkg then some e
      else
        let x : Cluster := { e.2 with tlb := e.2.tlb.filter (fun t => !tlb t), rbuf := e.2.rbuf.filter (fun l => !line l) }
        if x = {} then none else some (e.1, x)) }

/-- PGINV (R294). -/
def execPginv (d r : Fin 24) (s : State) : Host.Outcome State Fault Refusal :=
  finish s (s.privileged (fun s => do
    let p ← readG s d
    let a ← readG s r
    answer (s.dropTlb p.toNat (if a = BitVec.allOnes 64 then none else some (a.toNat % 2 ^ 52))) d 0))

/-! ## Requests (R347 to R349) -/

/-- The threads parked on a page. -/
def State.parkedOn (s : State) (k : PageKey) : List Nat :=
  s.cores.flatMap (fun e => (e.2.slots.filter (fun p => p.2.wait == .parked k)).map (fun p => p.2.uid))

/-- A held piece goes on to a new translation, or fails with poisoned data (R349). -/
def Piece.resume (q : Piece) (k : PageKey) (poison : Bool) : Piece :=
  if q.stage = .held k then { q with stage := if poison then .failed 0x0B else .sent } else q

/-- The held pieces of an access go on; a request that is issued again is charged again (R349, R362). -/
def Access.resume (a : Access) (k : PageKey) (poison : Bool) : Access :=
  let again : List Nat := ((List.range a.pieces.length).zip a.pieces).flatMap (fun e =>
    if e.2.stage = .held k then (if a.elems then [e.1] else match e.2.loc with | .glob va => blocksOf va e.2.n | _ => []) else [])
  { a with pieces := a.pieces.map (fun q => q.resume k poison), paid := a.paid.filter (fun b => !again.contains b) }

def Copy.resume (c : Copy) (k : PageKey) (poison : Bool) : Copy :=
  if c.paused = some k then { c with paused := none, poison := if poison then c.poison ++ [k] else c.poison } else c

def EngOp.resume (o : EngOp) (k : PageKey) (poison : Bool) : EngOp :=
  if o.paused = some k then { o with paused := none, poison := if poison then some k else none } else o

def Post.resume (p : Post) (k : PageKey) (poison : Bool) : Post :=
  if p.paused = some k then { p with paused := none, poison := if poison then some k else none } else p

def Waiter.resume (w : Waiter) (k : PageKey) (poison : Bool) : Waiter :=
  if w.paused ∧ w.key = some k then { w with paused := false, poison := poison } else w

def DescW.resume (d : DescW) (k : PageKey) (poison : Bool) : DescW :=
  if d.paused = some k then { d with paused := none, poison := if poison then some k else none } else d

def Claim.resume (c : Claim) (k : PageKey) (poison : Bool) : Claim :=
  if c.paused = some k then { c with paused := none, poison := if poison then some k else none } else c

/-- Everything that waits on a page goes on: held accesses and paused flows here, parked threads by a wake message (R318, R349). -/
def State.resumePage (s : State) (k : PageKey) (poison : Bool) : State :=
  let uids := s.parkedOn k
  { s with
    pageWakes := if uids.isEmpty then s.pageWakes else s.pageWakes ++ [{ uids := uids, key := k, poison := poison }]
    net := s.net.map (fun a => a.resume k poison)
    copies := s.copies.map (fun c => c.resume k poison)
    posts := s.posts.map (fun p => p.resume k poison)
    waits := s.waits.map (fun w => w.resume k poison)
    clusters := s.clusters.map (fun (e : Nat × Cluster) => (e.1, { e.2 with
      notices := e.2.notices.map (fun c => c.resume k poison), ropeq := e.2.ropeq.map (fun o => o.resume k poison)
      unmq := e.2.unmq.map (fun o => o.resume k poison), genq := e.2.genq.map (fun o => o.resume k poison)
      descs := e.2.descs.map (fun d => d.resume k poison) }))
    cores := s.cores.map (fun (e : Nat × Core) => (e.1, { e.2 with claims := e.2.claims.map (fun c => c.resume k poison) })) }

/-- The open request a kind-2 or kind-3 value names, by bits [51:38]: its die, its entry (R347). -/
def State.requestOf (s : State) (x : Dword) : Option (Nat × Nat × PageReq) :=
  let die := s.boot.pkg * 4 + bits x.toNat 51 50
  let i := bits x.toNat 49 38
  (mfind i (s.die die).reqs).map (fun q => (die, i, q))

/-- PGRESUME (R294, R349). -/
def execPgresume (d r : Fin 24) (s : State) : Host.Outcome State Fault Refusal :=
  finish s (s.privileged (fun s => do
    let x ← readG s d
    let m ← readG s r
    match s.requestOf x with
    | none => answer s d (-2)
    | some (die, i, q) =>
      if 1 < m.toNat then answer s d (-2)
      else
        let s := s.modDie die (fun y => { y with reqs := mdel i y.reqs })
        answer (s.resumePage ⟨die, q.part, q.page⟩ (m == 1)) d 0))

/-- PAGE_REQUEST_ENTRY: the oldest pending request of a die that finds an entry takes it and posts its records (R347, R348). -/
def execPageRequestEntry (die : Nat) (s : State) : Host.Outcome State Fault Refusal :=
  event s (
    let d := s.die die
    match findUp d.pending.length (fun i => match d.pending[i]? with | some q => d.room q.part | none => false) with
    | none => none
    | some i => match d.pending[i]? with
      | some q => some ((s.setDie die { d with pending := ldel d.pending i }).enterReq die q)
      | none => none)

/-- PAGE_WAKE: the groups parked on a request are reissued together; a thread that has left its slot is not found (R318, R319). -/
def execPageWake (i : Nat) (s : State) : Host.Outcome State Fault Refusal :=
  event s (match s.pageWakes[i]? with
    | none => none
    | some m =>
      let wake (t : Thread) : Thread :=
        if t.wait = .parked m.key ∧ m.uids.contains t.uid then
          { t with wait := .ready, poisoned := if m.poison then some m.key else t.poisoned }
        else t
      some { s with
        pageWakes := ldel s.pageWakes i
        cores := s.cores.map (fun (e : Nat × Core) => (e.1, { e.2 with slots := e.2.slots.map (fun p => (p.1, wake p.2)) })) })

/-! ## Migration (R350 to R353) -/

/-- The leaf for an address with the place of its entry: package, physical address, leaf, size (R344). -/
def findLeaf (s : State) (pkg table va : Nat) : Nat → Option (Nat × Nat × Nat × Bool)
  | 0 => none
  | n + 1 =>
    let level := 3 - n
    let a := table + 8 * bits va (51 - 9 * level) (43 - 9 * level)
    if s.bad.contains (knsKey pkg a / 8) ∨ ¬ s.linked pkg then none
    else
      let x := rdLE s.kns (knsKey pkg a) 8
      if ¬ pteValid x ∨ pteMalformed level x then none
      else if pteLeaf x then (if pteResident x then some (pkg, a, x, level == 2) else none)
      else findLeaf s (ptePkg x) (pteAddr x) va n

/-- A table entry with the frame fields of MIGDST (R350, R351). -/
def withFrame (x : Nat) (dst : Dword) : Nat := putBits (putBits x 12 36 (bits dst.toNat 47 12)) 58 6 (bits dst.toNat 63 58)

/-- Bytes of a page. -/
def pageBytes (big : Bool) : Nat := if big then 2 ^ 25 else 2 ^ 16

/-- A migration ends, done or abandoned with a cause: its hold is released (R350 to R352). -/
def State.endMigration (s : State) (die st cause : Nat) : State :=
  s.modDie die (fun d => { d with migst := st, migcause := cause, mig := none })

/-- The migration unit's store of a page-table entry x, one ordinary 8-byte store; none where it ends in an uncorrectable error, its package
out of reach or its word in error (R93, R351, R369). -/
def State.storeLeaf (s : State) (pkg a x : Nat) : Option State :=
  if ¬ s.linked pkg ∨ s.badAt pkg a 8 then none else some { s with kns := wrLE s.kns (knsKey pkg a) x 8 }

/-- The source cannot be read: the page is poisoned, its translations dropped, and a kind-5 record names it (R352). Where the store of its
entry fails, the rest is done all the same (entry 46). -/
def State.poisonPage (s : State) (die p va pkg a x cause : Nat) : State :=
  let s := (s.storeLeaf pkg a (x ||| 128)).getD s
  ((s.dropTlb p (some va)).postRec 5 p (die % 4 * 2 ^ 50 + va / 2 ^ 16 % 2 ^ 36)).endMigration die 3 cause

/-- Some word of a frame of KNS memory answers with an uncorrectable error (R93). -/
def State.badFrame (s : State) (pkg pa n : Nat) : Bool :=
  s.bad.any (fun w => decide (knsKey pkg pa / 8 ≤ w) && decide (w < (knsKey pkg pa + n) / 8))

/-- The frame lies in KNS memory of a package that can be reached. -/
def State.frameReached (s : State) (pkg pa n : Nat) : Bool := s.linked pkg && decide (pa + n ≤ Config.knsBytes)

/-- An access is past a port and not yet performed on a frame (R351). -/
def State.frameBusy (s : State) (pkg pa n : Nat) : Bool :=
  s.net.any (fun a => a.pieces.any (fun q => !q.finished && (match q.phys with
    | some (k, x) => k == pkg && decide (pa ≤ x) && decide (x < pa + n)
    | none => false)))

/-- The first steps of a migration: the walk, which a poisoned leaf makes fault, the checks, then the hold of the page's stores at every
port (R351). -/
def State.holdPage (s : State) (die : Nat) : State :=
  let d := s.die die
  let p := bits d.migva.toNat 63 60
  let va := bits d.migva.toNat 51 16 * 65536
  let root := (mget 0 p s.io.ptroot).toNat
  match (if bitAt root 0 ∧ p ≤ 12 then findLeaf s (bits root 63 58) (bits root 47 12 * 4096) va 4 else none) with
  | none => s.endMigration die 3 1
  | some (pkg, a, x, b) =>
    let y := withFrame x d.migdst
    if b ≠ bitAt d.migva.toNat 0 ∨ ptePoison x then s.endMigration die 3 1
    else if pteMalformed (if b then 2 else 3) y ∨ (ptePkg y = ptePkg x ∧ pteAddr y = pteAddr x) then s.endMigration die 3 2
    else
      let va := va / pageBytes b * pageBytes b
      s.setDie die { d with mig := some { part := p, va := va, pkg := pkg, pte := a, old := x, new := y, size := pageBytes b, next := 0 } }

/-- The entry of a page that migrates has been poisoned since its walk: every access to the page raises poisoned data, the unit's reads
among them (R342, R351). -/
def State.migPoisoned (s : State) (m : Mig) : Bool := ptePoison (rdLE s.kns (knsKey m.pkg m.pte) 8)

/-- Copy n bytes of the old frame from the next one on: a page poisoned meanwhile, a word of the source or of the destination that cannot be
reached or answers with an error abandons the migration, the page poisoned in the first two cases (R351, R352, entry 46). -/
def State.copyFrame (s : State) (die : Nat) (m : Mig) (n : Nat) : State :=
  let (k, a) := (ptePkg m.old, pteAddr m.old + m.next)
  let (k', a') := (ptePkg m.new, pteAddr m.new + m.next)
  if s.migPoisoned m then s.poisonPage die m.part m.va m.pkg m.pte m.old 4
  else if ¬ s.frameReached k a n ∨ s.badFrame k a n then s.poisonPage die m.part m.va m.pkg m.pte m.old 3
  else if ¬ s.frameReached k' a' n ∨ s.badFrame k' a' n then s.endMigration die 3 5
  else
    let src := knsKey k a
    let dst := knsKey k' a'
    let bytes := (mslice src (src + n) s.kns).map (fun (e : Nat × Byte) => (e.1 - src + dst, e.2))
    { s with kns := bytes.foldl (fun (m : Memory) (e : Nat × Byte) => wrB m e.1 e.2) (mclear dst (dst + n) s.kns) }.modDie die
      (fun d => { d with mig := some { m with next := m.next + n } })

/-- The switch: one store of the leaf, its translations dropped at every port, the hold released (R351). A store that fails abandons the
migration as a failing write does, cause 5 (R369, entry 46). -/
def State.switchPage (s : State) (die : Nat) (m : Mig) : State :=
  match s.storeLeaf m.pkg m.pte m.new with
  | none => s.endMigration die 3 5
  | some s => (s.dropTlb m.part (if m.size = pageBytes false then some m.va else none)).endMigration die 2 0

/-- Another unit holds a page that the unit of a die is to move: its hold waits behind that one (R353). -/
def State.heldBefore (s : State) (die : Nat) : Bool :=
  let d := s.die die
  let size := pageBytes (bitAt d.migva.toNat 0)
  let va := bits d.migva.toNat 51 16 * 65536 / size * size
  s.dies.any (fun e => e.1 != die && (match e.2.mig with
    | some m => m.part == bits d.migva.toNat 63 60 && decide (m.va < va + size) && decide (va < m.va + m.size)
    | none => false))

/-- A step of die's migration unit: the hold, behind those of other units; then, once the accesses past the ports are performed, the copy,
in one step with the switch or 64 bytes a step with the switch last, as the move asks for. Loads go on meanwhile, and those past a port to
the old frame are performed before the switch (R351 to R353, entry 46). -/
def State.migrate (s : State) (die : Nat) : Option State :=
  let d := s.die die
  if d.migst ≠ 1 then none
  else match d.mig with
    | none => if s.heldBefore die then none else some (s.holdPage die)
    | some m =>
      if (m.next = 0 ∨ m.size ≤ m.next ∨ s.cur.split = false) ∧ s.frameBusy (ptePkg m.old) (pteAddr m.old) m.size then none
      else if m.size ≤ m.next then some (s.switchPage die m)
      else if s.cur.split then some (s.copyFrame die m 64)
      else
        let s := s.copyFrame die m (m.size - m.next)
        match (s.die die).mig with
        | some m => some (s.switchPage die m)
        | none => some s

/-- MIGRATION (R351). -/
def execMigration (die : Nat) (s : State) : Host.Outcome State Fault Refusal := event s (s.migrate die)

/-- MIGGO_WRITE (R350). -/
def execMiggoWrite (die : Nat) (x : Dword) (s : State) : Host.Outcome State Fault Refusal :=
  event s (if die / 4 = s.boot.pkg then some (s.startMigration die x) else none)

end Sys2Proof.Machine
end

