-- ==== Sys2Proof/Machine/PartI.lean ====
section
/-! DEFINITION. CALSET, SCRUB, CAPMK, TRAVREPL, IRET, interrupts, and the steps and register writes of partitions: calendars, scrubs,
tokens, keys, the logical-core table (R88, R287, R294, R297, R334, R357, R359 to R365). -/

namespace Sys2Proof.Machine

/-! ## Calendars (R359, R361) -/

/-- The hop a CALSET names, as unit × 16 + port (R361). -/
def hopOf (a : Dword) : Option Nat :=
  let u := regUnit a
  let p := bits a.toNat 3 0
  let ports := if u < 0x800 then 5 else if 0x800 ≤ u ∧ u < 0x820 then 6 else if u = 0x8C0 then 4
    else if 0xA80 ≤ u ∧ u < 0xA98 then 1 else 0
  if bits a.toNat 63 48 = 0 ∧ bits a.toNat 31 4 = 0 ∧ p < ports then some (u * 16 + p) else none

/-- CALSET: the slot changes at the hop's next furlong boundary (R361). -/
def execCalset (d r : Fin 24) (s : State) : Host.Outcome State Fault Refusal :=
  finish s (s.privileged (fun s => do
    let a ← readG s d
    let x ← readG s r
    match hopOf a with
    | none => answer s d (-1)
    | some h =>
      if bits x.toNat 63 12 ≠ 0 ∨ bits x.toNat 7 6 ≠ 0 then answer s d (-1)
      else
        let c : CalPending := { hop := h, slot := bits x.toNat 5 0, owner := bits x.toNat 11 8 }
        answer (s.modIo (fun io => { io with calPend := io.calPend ++ [c] })) d 0))

/-- The value of a calendar slot: 0 open, else its owner's tag + 1. -/
def calValue (owner : Nat) : Nat := if owner = 15 then 0 else owner + 1

/-- FURLONG_BOUNDARY: the changes that wait for a hop's boundary take effect in the order they arrived (R361). -/
def execFurlongBoundary (hop : Nat) (s : State) : Host.Outcome State Fault Refusal :=
  event s (
    let mine := s.io.calPend.filter (fun c => c.hop == hop)
    if mine.isEmpty then none
    else some (s.modIo (fun io => { io with
      cal := mine.foldl (fun m c => mset 0 (64 * hop + c.slot) (calValue c.owner) m) io.cal
      calPend := io.calPend.filter (fun c => c.hop != hop) })))

/-! ## Scrubs (R294, R364, R365) -/

/-- What a SCRUB names: a core, or a package, first frame and count; none for reason 10, an error for −1. -/
inductive ScrubOf where
  | illegal
  | refused
  | core (c : Nat)
  | frames (pkg f n : Nat)
  deriving DecidableEq, Repr

def scrubOf (a x : Dword) (pkg : Nat) : ScrubOf :=
  let v := a.toNat
  if bits v 63 60 = 1 then
    (if bits v 59 43 ≠ 0 ∨ bits v 31 0 ≠ 0 then .illegal
     else if x ≠ 0 then .refused else .core (ckey pkg (bits v 42 32)))
  else if bits v 63 52 ≠ 0 ∨ bits v 45 24 ≠ 0 then .illegal
  else if x = 0 ∨ 2 ^ 32 < x.toNat then .refused
  else if 0xC00000 < bits v 23 0 + x.toNat then .illegal
  else .frames (bits v 51 46) (bits v 23 0) x.toNat

/-- Scrubs a package runs. -/
def State.scrubsAt (s : State) (pkg : Nat) : Nat := s.scrubs.countP (fun x => x.pkg == pkg)

/-- SCRUB: the range reads as zero from here on; the sweep follows (R364, R365). -/
def execScrub (d r : Fin 24) (s : State) : Host.Outcome State Fault Refusal :=
  finish s (s.privileged (fun s => do
    let a ← readG s d
    let x ← readG s r
    match scrubOf a x s.boot.pkg with
    | .illegal => .error (.trap 0x01 (s.baseIllegal 10))
    | .refused => answer s d (-1)
    | .core c =>
      if ¬ (s.core c).slots.isEmpty ∨ s.scrubs.any (fun x => x.arg == a) then answer s d (-1)
      else if 16 ≤ s.scrubsAt s.boot.pkg then .error (.wait s .room)
      else
        let s := s.modCore c (fun k => { k with mem := [], full := [] })
        answer { s with scrubs := s.scrubs ++ [{ arg := a, pkg := s.boot.pkg, next := 0, stop := 32768 }] } d 0
    | .frames pkg f n =>
      if ¬ s.linked pkg then answer s d (-1)
      else if 16 ≤ s.scrubsAt pkg then .error (.wait s .room)
      else
        let m := mclear (knsKey pkg (f * 65536)) (knsKey pkg ((f + n) * 65536)) s.kns
        answer { s with kns := m, scrubs := s.scrubs ++ [{ arg := a, pkg := pkg, next := f * 1024, stop := (f + n) * 1024 }] } d 0))

/-- SCRUB_SWEEP: scrub i passes its next line; at its end it posts a kind-7 record (R364). -/
def execScrubSweep (i : Nat) (s : State) : Host.Outcome State Fault Refusal :=
  event s (match s.scrubs[i]? with
    | none => none
    | some x =>
      if x.next + 1 < x.stop then some { s with scrubs := lset s.scrubs i { x with next := x.next + 1 } }
      else some ({ s with scrubs := ldel s.scrubs i }.postRec 7 0 (x.arg.toNat % 2 ^ 52)))

/-! ## Capabilities (R294) -/

/-- A capability CAPMK may make. -/
def capmkOk (x : Nat) : Bool :=
  decide (bits x 31 0 = 0 ∧ bits x 37 35 = 0 ∧ 1 ≤ bits x 63 60 ∧ bits x 63 60 ≤ 12 ∧ bits x 59 49 ≤ bits x 48 38)

/-- CAPMK (R294). -/
def execCapmk (d r : Fin 24) (s : State) : Host.Outcome State Fault Refusal :=
  finish s (s.privileged (fun s => do
    let x ← readG s r
    if ¬ capmkOk x.toNat then .error (.trap 0x01 (s.baseIllegal 10))
    else done (s.gives d (BitVec.ofNat 64 (x.toNat + s.capCheck x)))))

/-- CAPKEY_WRITE: word w of the key of partition p (R294). -/
def execCapkeyWrite (p w : Nat) (x : Dword) (s : State) : Host.Outcome State Fault Refusal :=
  event s (if 1 ≤ p ∧ p ≤ 12 ∧ w < 4 then some (s.setCapkey p w x) else none)

/-- LCT_WRITE (R357). -/
def execLctWrite (p n : Nat) (x : Dword) (s : State) : Host.Outcome State Fault Refusal :=
  event s (if p ≤ 12 ∧ n < 2048 then some (s.setLct p n x) else none)

/-! ## Holders (R88, R294) -/

/-- The core of core index i of a map's group. -/
def SegMap.at_ (m : SegMap) (i : Nat) : Option Nat := m.cores[i]?

/-- A core is a holder of some entry of a map. -/
def SegMap.isHolder (m : SegMap) (c : Nat) : Bool := (m.localSeg c).isSome

/-- What TRAVREPL answers for the maps of a node on a cluster: −1 not placed, −2 last holder, −3 full or already a holder (R294). For a
segment id past the map, a core index past the group and the removal of a core that is no holder the spec gives no answer: here −1 (entry
81). -/
def travCheck (ms : List SegMap) (j i : Nat) (add : Bool) : Int :=
  if ms.isEmpty ∨ ms.any (fun m => decide (m.entries.length ≤ j) || (m.at_ i).isNone) then -1
  else if add then
    (if ms.any (fun m => (match m.entries[j]? with | some e => decide (4 ≤ e.holders.length) | none => true) ||
      (match m.at_ i with | some c => m.isHolder c | none => true)) then -3 else 0)
  else if ms.any (fun m => (match m.entries[j]? with | some e => !e.holders.contains i | none => true)) then -1
  else if ms.any (fun m => (match m.entries[j]? with | some e => e.holders.all (· == i) | none => true)) then -2
  else 0

/-- The map with a holder added to, or removed from, entry j. The spec does not say where an added holder stands in map order: here it is
the last, and those behind a removed one move up (entry 81). -/
def SegMap.setHolder (m : SegMap) (j i : Nat) (add : Bool) : SegMap :=
  match m.entries[j]? with
  | none => m
  | some e => { m with entries := lset m.entries j { e with
      holders := if add then e.holders ++ [i] else e.holders.filter (· != i) } }

/-- Core index i of a node's groups on cluster k gains or loses segment j; the threads on a removed core leave it, those that were to leave
it already for the reason they had (R85, R88). -/
def State.setHolder (s : State) (k nid j i : Nat) (add : Bool) : State :=
  let mine (m : SegMap) : Bool := m.node == nid
  let cores := ((s.clu k).maps.filter mine).filterMap (fun m => m.at_ i)
  let s := s.modClu k (fun x => { x with
    maps := x.maps.map (fun m => if mine m then m.setHolder j i add else m)
    adv := if add then x.adv else cores.foldl (fun a c => mdel c a) x.adv })
  if add then s
  else cores.foldl (fun s c => s.modCore c (fun x => { x with
    slots := x.slots.map (fun (e : Nat × Thread) => (e.1, if e.2.node = some nid then { e.2 with leave := some (e.2.leave.getD .moved) } else e.2)) })) s

/-- TRAVREPL (R88, R294). -/
def execTravrepl (d r : Fin 24) (s : State) : Host.Outcome State Fault Refusal :=
  finish s (s.privileged (fun s => do
    let a ← readG s d
    let x ← readG s r
    let k := s.boot.pkg * 64 + bits a.toNat 44 40
    let nid := bits a.toNat 39 0
    let j := bits x.toNat 5 0
    let i := bits x.toNat 13 8
    let add := bitAt x.toNat 16
    if bits a.toNat 63 45 ≠ 0 ∨ bits x.toNat 63 17 ≠ 0 ∨ bits x.toNat 15 14 ≠ 0 ∨ bits x.toNat 7 6 ≠ 0 then answer s d (-1)
    else
      let ms := (s.clu k).maps.filter (fun m => m.node == nid)
      match travCheck ms j i add with
      | 0 => answer (s.setHolder k nid j i add) d 0
      | e => answer s d e))

/-! ## Interrupts (R287, R297) -/

/-- IRET (R297). -/
def execIret (s : State) : Host.Outcome State Fault Refusal :=
  finish s (if ¬ isService s.cur.core then .error (.trap 0x02 (s.baseWord.setWidth 64)) else s.intReturn)

/-- A thread stands at a group boundary at which an interrupt can be taken: no access of its group has begun, but where it is parked, or has
an answer that its group is to take (R132, R287, R318, R349). -/
def Thread.interruptible (t : Thread) : Bool :=
  (match t.ctl with | .run => true | _ => false) && (match t.wait with | .ready | .poll _ | .parked _ => true | _ => false) &&
    !t.midway && t.poisoned.isNone

/-- INTERRUPT_TAKE: service core c takes the interrupt in its interrupt slot (R287). -/
def execInterruptTake (c : Nat) (s : State) : Host.Outcome State Fault Refusal :=
  event s (match s.thread? c (s.core c).islot.val with
    | none => none
    | some t =>
      if isService c ∧ (s.core c).ien = true ∧ s.io.intq ≠ [] ∧ t.interruptible = true then some (s.takeInterrupt c) else none)

/-- INTQ_READ (R287). -/
def execIntqRead (s : State) : Host.Outcome State Fault Refusal :=
  let (s, x) := s.popIntq
  .next { s with busRead := x }

/-- WLOG_READ (R334). -/
def execWlogRead (p : Nat) (s : State) : Host.Outcome State Fault Refusal :=
  event s (if 1 ≤ p ∧ p ≤ 12 then
    (let (s, x) := s.popWlog p
     some { s with busRead := x })
    else none)

/-- REGISTER_WRITE (R289). An address with k + 1 in its reserved bits [63:48] stands for package k's own write of its register (R368, entry
76). -/
def execRegisterWrite (a x : Dword) (s : State) : Host.Outcome State Fault Refusal :=
  event s (
    let k := bits a.toNat 63 48
    if regAddrOk a then some (s.regWrite a x)
    else if 1 ≤ k ∧ k ≤ 64 ∧ k - 1 ≠ s.boot.pkg ∧ bits a.toNat 31 16 = 0 then some (s.farRegWrite (k - 1) a x)
    else none)

/-! ## Tokens (R362, R363) -/

/-- TOKEN_REFILL: the buckets of a die at the end of an interval of 1,024 cycles; a request that goes on waiting is demand of the next one
too (R363). -/
def execTokenRefill (die : Nat) (s : State) : Host.Outcome State Fault Refusal :=
  event s (if (s.die die).refills < s.counter / 1024 then
    some (s.refillOnce die)
    else none)

end Sys2Proof.Machine
end

