-- ==== Sys2Proof/Machine/Phase.lean ====
section
/-! DEFINITION. The phase instructions (R108 to R111, R221, R222). -/

namespace Sys2Proof.Machine

/-- The checks of R222 on a phase-word address: the place. -/
def State.phasePlace (s : State) (a : Dword) (right : Nat) : Except Halt Loc :=
  let v : Dword := BitVec.ofNat 64 (raOffset a)
  let l := s.place s.cur.core s.ctag (raSpace a) (raField a)
  if raSpace a < 1 ∨ 4 < raSpace a ∨ ¬ raListed a ∨ ¬ inReach s.cur.core l then .error (.trap 0x04 v)
  else if raRights a &&& right = 0 then .error (.trap 0x04 v)
  else if a.toNat % 16 ≠ 0 then .error (.trap 0x05 v)
  else match l with
    | none => .error (.trapIn (s.noCore s.ctag (raField a)) 0x04 v)
    | some l => .ok l

/-- The access of a phase instruction to its word, as one ordinary access (R222). -/
def State.phaseAccess (s : State) (a : Dword) (l : Loc) (op : POp) : Except Halt (State × Nat) :=
  s.ordinary l 16 op (BitVec.ofNat 64 (raOffset a)) a

/-- PHINIT: sets the targets and zeroes bytes, arr, gen and over (R109). -/
def execPhinit (d r : Fin 24) (s : State) : Host.Outcome State Fault Refusal :=
  finish s (do
    let x ← readG s d
    let a ← readG s r
    let l ← s.phasePlace a rightW
    let (s, _) ← s.phaseAccess a l (.wr (pwWord 0 false 0 (bits x.toNat 31 0) 0 (bits x.toNat 47 32)) (fullMask 16))
    done s)

/-- PHARR: a release, then the update by g[d] bytes and one arrival (R222). -/
def execPharr (d r : Fin 24) (_scope : Scope) (s : State) : Host.Outcome State Fault Refusal :=
  finish s (do
    let x ← readG s d
    let a ← readG s r
    let l ← s.phasePlace a rightA
    s.release
    let (s, _) ← s.phaseAccess a l (.phase x.toNat 1)
    done s)

/-- A PHWAIT on the operation's own phase word observes its deferred trap (R125). -/
def observeWord (s : State) (l : Loc) : Except Halt Unit := observeAll (s.cth.deferredAt s s.ctag l)

/-- PHWAIT: reads the word until its generation differs from g[d][30:0], then acquires and returns it (R110, R222). -/
def phwaitEff (s : State) (d r : Fin 24) (scope : Scope) : Eff := do
  let e ← readG s d
  let a ← readG s r
  let l ← s.phasePlace a rightR
  observeWord s l
  let (s1, w) ← s.phaseAccess a l .rd
  if pwGen w = bits e.toNat 30 0 then .error (.wait s1 (.phase l (bits e.toNat 30 0) d scope s1.nextPc))
  else
    let g : Dword := BitVec.ofNat 64 (pwGen w)
    s1.thenAcquire scope (some (.g d, g)) (fun s => .ok (writeG s d g))

/-- PHWAIT (R222). -/
def execPhwait (d r : Fin 24) (scope : Scope) (s : State) : Host.Outcome State Fault Refusal :=
  finish s (phwaitEff s d r scope)

/-- PHREAD: one 16-byte read to g[d] and g[d + 1], no acquire (R222). -/
def execPhread (d r : Fin 24) (_scope : Scope) (s : State) : Host.Outcome State Fault Refusal :=
  finish s (do
    let a ← readG s r
    let l ← s.phasePlace a rightR
    let (s, w) ← s.phaseAccess a l .rd
    done (writeGroup s d [BitVec.ofNat 64 w, BitVec.ofNat 64 (w / 2 ^ 64)]))

/-- A waiting PHWAIT reads its word again (R110). -/
def execPhwaitReread (c n : Nat) (s : State) : Host.Outcome State Fault Refusal :=
  match (s.thread c n).ctl, (s.thread c n).wait with
  | .run, .poll (.phase _ _ _ _ _) =>
    (match s.fetch c n with
     | .run s' (.phwait d r sc) => finish s' (phwaitEff s' d r sc)
     | _ => .next s)
  | _, _ => .next s

end Sys2Proof.Machine
end

