-- ==== Sys2Proof/Machine/VecInt.lean ====
section
/-! DEFINITION. Page 1: integer lanes, lane movement, reductions and scans, mask registers (R190 to R195, R203). -/

namespace Sys2Proof.Machine

/-- An integer lane instruction with sources D and S (R190). -/
def intDS (s : State) (x : P1) (d : Fin 8) (o : Src) (f : Nat → Nat → Nat × Fl) : Eff :=
  let w := tyWidth x.ty
  lanewise s x (tyLanes x.ty) w w (tySigned x.ty) false true (.v d) o none (fun a b _ => f a b)

/-- x modulo 2^w as a lane of an integer type. -/
def wrapTy (t : Ty) (x : Int) : Nat := ofSigned (tyWidth t) x

/-- The bounds of an integer type. -/
def loTy (t : Ty) : Int := if tySigned t then -(2 ^ (tyWidth t - 1) : Nat) else 0
def hiTy (t : Ty) : Int := if tySigned t then (2 ^ (tyWidth t - 1) : Nat) - 1 else (2 ^ tyWidth t : Nat) - 1

/-- An exact result clamped to a type, with SAT (R121). -/
def clampTy (t : Ty) (x : Int) : Nat × Fl :=
  if x < loTy t then (wrapTy t (loTy t), fSAT) else if hiTy t < x then (wrapTy t (hiTy t), fSAT) else (wrapTy t x, 0)

/-- VADD (R190). -/
def execVadd (x : P1) (d : Fin 8) (o : Src) (s : State) : Host.Outcome State Fault Refusal :=
  finish s (intDS s x d o (fun a b => noFl (wrapTy x.ty (intVal x.ty a + intVal x.ty b))))

/-- VSUB (R190). -/
def execVsub (x : P1) (d : Fin 8) (o : Src) (s : State) : Host.Outcome State Fault Refusal :=
  finish s (intDS s x d o (fun a b => noFl (wrapTy x.ty (intVal x.ty a - intVal x.ty b))))

/-- VMUL (R190). -/
def execVmul (x : P1) (d : Fin 8) (o : Src) (s : State) : Host.Outcome State Fault Refusal :=
  finish s (intDS s x d o (fun a b => noFl (wrapTy x.ty (intVal x.ty a * intVal x.ty b))))

/-- VAND (R190). -/
def execVand (x : P1) (d : Fin 8) (o : Src) (s : State) : Host.Outcome State Fault Refusal :=
  finish s (intDS s x d o (fun a b => noFl (a &&& b)))

/-- VOR (R190). -/
def execVor (x : P1) (d : Fin 8) (o : Src) (s : State) : Host.Outcome State Fault Refusal :=
  finish s (intDS s x d o (fun a b => noFl (a ||| b)))

/-- VXOR (R190). -/
def execVxor (x : P1) (d : Fin 8) (o : Src) (s : State) : Host.Outcome State Fault Refusal :=
  finish s (intDS s x d o (fun a b => noFl (a ^^^ b)))

/-- VSHL: by S mod w (R190). -/
def execVshl (x : P1) (d : Fin 8) (o : Src) (s : State) : Host.Outcome State Fault Refusal :=
  finish s (intDS s x d o (fun a b => let w := tyWidth x.ty; noFl (a * 2 ^ (b % w) % 2 ^ w)))

/-- VSHR: by S mod w, zeros entering (R190). -/
def execVshr (x : P1) (d : Fin 8) (o : Src) (s : State) : Host.Outcome State Fault Refusal :=
  finish s (intDS s x d o (fun a b => noFl (a / 2 ^ (b % tyWidth x.ty))))

/-- VSAR: by S mod w, the sign bit entering (R190). -/
def execVsar (x : P1) (d : Fin 8) (o : Src) (s : State) : Host.Outcome State Fault Refusal :=
  finish s (intDS s x d o (fun a b => let w := tyWidth x.ty; noFl (ofSigned w (toSigned w a / 2 ^ (b % w)))))

/-- VMIN (R190). -/
def execVmin (x : P1) (d : Fin 8) (o : Src) (s : State) : Host.Outcome State Fault Refusal :=
  finish s (intDS s x d o (fun a b => noFl (if intVal x.ty a ≤ intVal x.ty b then a else b)))

/-- VMAX (R190). -/
def execVmax (x : P1) (d : Fin 8) (o : Src) (s : State) : Host.Outcome State Fault Refusal :=
  finish s (intDS s x d o (fun a b => noFl (if intVal x.ty a ≤ intVal x.ty b then b else a)))

/-- VSADD: the exact sum clamped (R190). -/
def execVsadd (x : P1) (d : Fin 8) (o : Src) (s : State) : Host.Outcome State Fault Refusal :=
  finish s (intDS s x d o (fun a b => clampTy x.ty (intVal x.ty a + intVal x.ty b)))

/-- A VCMP condition (R191). -/
def icondHolds (c : ICond) (a b : Int) : Bool :=
  match c with
  | .eq => decide (a = b) | .ne => decide (a ≠ b) | .lt => decide (a < b)
  | .le => decide (a ≤ b) | .gt => decide (b < a) | .ge => decide (b ≤ a)

/-- VCMP (R191). -/
def execVcmp (x : P1) (d : Fin 8) (o t : Opnd) (c : ICond) (s : State) : Host.Outcome State Fault Refusal :=
  finish s (compare s x (tyLanes x.ty) (tyWidth x.ty) (.k d) o t (fun a b => (icondHolds c (intVal x.ty a) (intVal x.ty b), 0)))

/-- The accumulator type of VDOT (R192). -/
def dotTy (t : Ty) : Ty := if tySigned t then .i32 else .n32

/-- VDOT (R192). -/
def execVdot (x : P1) (d : Fin 8) (o t : Opnd) (sat : Bool) (s : State) : Host.Outcome State Fault Refusal :=
  finish s (do
    let w := tyWidth x.ty
    let g := 32 / w
    let a ← readV s d
    let b ← readLanes s w o
    let c ← readLanes s w t
    let rs := (lanesOf s x 16).map (fun j =>
      let sum : Int := ((List.range g).map (fun m =>
        intVal x.ty (lane w b (g * j + m)) * intVal x.ty (lane w c (g * j + m)))).sum
      let v := intVal (dotTy x.ty) (lane 32 a j) + sum
      (j, if sat then clampTy (dotTy x.ty) v else noFl (wrapTy (dotTy x.ty) v)))
    done (← raiseFlags (writeV s d (rs.foldl (fun v e => setLane 32 v e.1 e.2.1) a)) (rs.map (fun e => (e.1, e.2.2)))))

/-- TACC: ternary products by the sign of the weight (R203). -/
def execTacc (x : P1) (d : Fin 8) (o t : Opnd) (s : State) : Host.Outcome State Fault Refusal :=
  finish s (do
    let a ← readV s d
    let b ← readLanes s 32 o
    let c ← readLanes s 32 t
    let f (j : Nat) : Nat :=
      let sum : Int := ((List.range 4).map (fun m => (toSigned 8 (lane 8 b (4 * j + m))).sign * toSigned 8 (lane 8 c (4 * j + m)))).sum
      ofSigned 32 ((lane 32 a j : Int) + sum)
    done (writeV s d ((lanesOf s x 16).foldl (fun v j => setLane 32 v j (f j)) a)))

/-! ## Rearranging lanes (R193) -/

/-- VMOV: a g source broadcasts. -/
def execVmov (x : P1) (d : Fin 8) (o : Opnd) (s : State) : Host.Outcome State Fault Refusal :=
  let w := tyWidth x.ty
  finish s (lanewise s x (tyLanes x.ty) w w false false false (.v d) (.op o) none (fun _ b _ => noFl b))

/-- VBCAST: lane 0 of s, or a g source, to every active lane. -/
def execVbcast (x : P1) (d : Fin 8) (o : Opnd) (s : State) : Host.Outcome State Fault Refusal :=
  let w := tyWidth x.ty
  finish s (do
    let v ← readLanes s w o
    done (writeV s d ((lanesOf s x (tyLanes x.ty)).foldl (fun r i => setLane w r i (lane w v 0)) (s.cth.v[d.val]))))

/-- The register of a g code 16 to 31. -/
def gOf (r : Fin 16) : Fin 24 := Fin.castLE (by decide) r

/-- VEXT: lane (g[t] mod n) of s to a g register. -/
def execVext (x : P1) (d : Fin 16) (o : Fin 8) (t : Fin 16) (s : State) : Host.Outcome State Fault Refusal :=
  let w := tyWidth x.ty
  finish s (do
    let v ← readV s o
    let i ← readG s (gOf t)
    done (writeG s (gOf d) (scalarResult (tySigned x.ty) w (lane w v (i.toNat % tyLanes x.ty)))))

/-- VINS: the low w bits of a g register to lane (g[t] mod n) of d. -/
def execVins (x : P1) (d : Fin 8) (o t : Fin 16) (s : State) : Host.Outcome State Fault Refusal :=
  let w := tyWidth x.ty
  finish s (do
    let v ← readV s d
    let y ← readG s (gOf o)
    let i ← readG s (gOf t)
    done (writeV s d (setLane w v (i.toNat % tyLanes x.ty) y.toNat)))

/-- VPERM: lane i ← lane (T_i mod n) of s, all read before d is written. -/
def execVperm (x : P1) (d : Fin 8) (o t : Opnd) (s : State) : Host.Outcome State Fault Refusal :=
  let w := tyWidth x.ty
  let n := tyLanes x.ty
  finish s (do
    let v ← readLanes s w o
    let p ← readLanes s w t
    done (writeV s d ((lanesOf s x n).foldl (fun r i => setLane w r i (lane w v (lane w p i % n))) (s.cth.v[d.val]))))

/-- VSLIDE: lane i ← lane i + c of D, 0 past the end. -/
def execVslide (x : P1) (d : Fin 8) (o : Src) (s : State) : Host.Outcome State Fault Refusal :=
  let w := tyWidth x.ty
  let n := tyLanes x.ty
  finish s (do
    let v ← readV s d
    let (c, s) ← readS s o
    done (writeV s d ((lanesOf s x n).foldl (fun r i =>
      setLane w r i (if i + c.toNat < n then lane w v (i + c.toNat) else 0)) v)))

/-! ## Reductions and scans (R129, R194) -/

/-- A partial result of a reduction: absent, or a value and the flags of the roundings that formed it. -/
abbrev Partial := Option (Nat × Fl)

/-- Combine two partial results; an absent one passes the other on. -/
def combine (f : Nat → Nat → Nat × Fl) : Partial → Partial → Partial
  | none, b => b
  | a, none => a
  | some (a, fa), some (b, fb) => let r := f a b; some (r.1, fa ||| fb ||| r.2)

/-- One level of the tree: neighbours in pairs, the lower lane on the left. -/
def pairUp (f : Nat → Nat → Nat × Fl) : List Partial → List Partial
  | a :: b :: l => combine f a b :: pairUp f l
  | l => l

/-- The tree of VRED over a power of two of lanes, one level for each step. -/
def treeReduce (f : Nat → Nat → Nat × Fl) : Nat → List Partial → Partial
  | 0, l => (l.head?).getD none
  | n + 1, l => treeReduce f n (pairUp f l)

/-- The lanes taken in order. -/
def ordReduce (f : Nat → Nat → Nat × Fl) (l : List Partial) : Partial := l.foldl (combine f) none

/-- Lanes 0 to m − 1 in the aligned power-of-two blocks of m's binary digits, largest first, combined from the left; k counts the
digits still to come. -/
def treeScan (f : Nat → Nat → Nat × Fl) (m : Nat) : Nat → List Partial → Partial → Partial
  | 0, _, acc => acc
  | k + 1, l, acc =>
    if bitAt m k then treeScan f m k (l.drop (2 ^ k)) (combine f acc (treeReduce f k (l.take (2 ^ k))))
    else treeScan f m k l acc

/-- The operation of a reduction on a type (R183, R194). -/
def redFn (t : Ty) (op : RedOp) (m : RMode) (a b : Nat) : Nat × Fl :=
  match t with
  | .f64 | .f32 | .f16 | .bf16 => (match op with
    | .add => opAdd t m a b | .min => opMinMax false true t a b | .max => opMinMax true true t a b)
  | _ => noFl (match op with
    | .add => wrapTy t (intVal t a + intVal t b)
    | .min => if intVal t a ≤ intVal t b then a else b
    | .max => if intVal t a ≤ intVal t b then b else a)

/-- The identity of an empty reduction (R129). -/
def redIdentity (t : Ty) (op : RedOp) : Nat :=
  match t with
  | .f64 | .f32 | .f16 | .bf16 => (match op with | .add => 0 | .min => infF t false | .max => infF t true)
  | _ => (match op with | .add => 0 | .min => wrapTy t (hiTy t) | .max => wrapTy t (loTy t))

/-- The lanes of a source that take part. -/
def redLanes (s : State) (x : P1) (v : Vec) : List Partial :=
  let m := maskBits s x.mask
  (List.range (tyLanes x.ty)).map (fun i => if active m i then some (lane (tyWidth x.ty) v i, 0) else none)

/-- VRED: the combined value to lane 0, its flags in bit 0. -/
def execVred (x : P1) (d : Fin 8) (o : Opnd) (tree : Bool) (op : RedOp) (rm : Option RMode) (s : State) :
    Host.Outcome State Fault Refusal :=
  let w := tyWidth x.ty
  finish s (do
    let v ← readLanes s w o
    let f := redFn x.ty op (roundMode s rm)
    let l := redLanes s x v
    let r := ((if tree then treeReduce f (Nat.log2 (tyLanes x.ty)) l else ordReduce f l)).getD (redIdentity x.ty op, 0)
    done (← raiseFlags (writeV s d (setLane w (s.cth.v[d.val]) 0 r.1)) [(0, r.2)]))

/-- VSCAN: to each active lane i the combination of lanes 0 to i. -/
def execVscan (x : P1) (d : Fin 8) (o : Opnd) (tree : Bool) (op : RedOp) (rm : Option RMode) (s : State) :
    Host.Outcome State Fault Refusal :=
  let w := tyWidth x.ty
  finish s (do
    let v ← readLanes s w o
    let f := redFn x.ty op (roundMode s rm)
    let l := redLanes s x v
    let rs := (lanesOf s x (tyLanes x.ty)).map (fun i =>
      (i, (if tree then treeScan f (i + 1) 7 (l.take (i + 1)) none else ordReduce f (l.take (i + 1))).getD (redIdentity x.ty op, 0)))
    done (← raiseFlags (writeV s d (rs.foldl (fun r e => setLane w r e.1 e.2.1) (s.cth.v[d.val]))) (rs.map (fun e => (e.1, e.2.2)))))

/-! ## Mask registers (R195) -/

/-- KOP. -/
def execKop (d o : Opnd) (op : KOp) (s : State) : Host.Outcome State Fault Refusal :=
  finish s (do
    let (b, s) ← readO s o
    let (a, s) ← match op with
      | .and | .or | .xor | .andn => readO s d
      | .not | .pop | .first | .mov => pure (0, s)
    let r : Dword := match op with
      | .and => a &&& b | .or => a ||| b | .xor => a ^^^ b | .andn => a &&& ~~~b | .not => ~~~b
      | .pop => BitVec.ofNat 64 ((List.range 64).countP (fun i => b.getLsbD i))
      | .first => BitVec.ofNat 64 (((List.range 64).find? (fun i => b.getLsbD i)).getD 64)
      | .mov => b
    done (← writeO s d r))

end Sys2Proof.Machine
end

