-- ==== Sys2Proof/Machine/Dispatch.lean ====
section
/-! DEFINITION. One arm for every operation of the opcode table: the instructions, then the device's own steps. -/

namespace Sys2Proof.Machine

def exec (i : Instr) (s : State) : Host.Outcome State Fault Refusal :=
  match i with
  | .add d s1 => Sys2Proof.Machine.execAdd d s1 s
  | .sub d s1 => Sys2Proof.Machine.execSub d s1 s
  | .mul d s1 => Sys2Proof.Machine.execMul d s1 s
  | .mulh d s1 => Sys2Proof.Machine.execMulh d s1 s
  | .mulhn d s1 => Sys2Proof.Machine.execMulhn d s1 s
  | .div d s1 => Sys2Proof.Machine.execDiv d s1 s
  | .divn d s1 => Sys2Proof.Machine.execDivn d s1 s
  | .rem d s1 => Sys2Proof.Machine.execRem d s1 s
  | .remn d s1 => Sys2Proof.Machine.execRemn d s1 s
  | .and d s1 => Sys2Proof.Machine.execAnd d s1 s
  | .or d s1 => Sys2Proof.Machine.execOr d s1 s
  | .xor d s1 => Sys2Proof.Machine.execXor d s1 s
  | .andn d s1 => Sys2Proof.Machine.execAndn d s1 s
  | .shl d s1 => Sys2Proof.Machine.execShl d s1 s
  | .shr d s1 => Sys2Proof.Machine.execShr d s1 s
  | .sar d s1 => Sys2Proof.Machine.execSar d s1 s
  | .rol d s1 => Sys2Proof.Machine.execRol d s1 s
  | .min d s1 => Sys2Proof.Machine.execMin d s1 s
  | .max d s1 => Sys2Proof.Machine.execMax d s1 s
  | .minn d s1 => Sys2Proof.Machine.execMinn d s1 s
  | .maxn d s1 => Sys2Proof.Machine.execMaxn d s1 s
  | .clz d s1 => Sys2Proof.Machine.execClz d s1 s
  | .ctz d s1 => Sys2Proof.Machine.execCtz d s1 s
  | .popc d s1 => Sys2Proof.Machine.execPopc d s1 s
  | .ext d s1 w sign => Sys2Proof.Machine.execExt d s1 w sign s
  | .mov d s1 => Sys2Proof.Machine.execMov d s1 s
  | .movi d imm => Sys2Proof.Machine.execMovi d imm s
  | .addi d imm => Sys2Proof.Machine.execAddi d imm s
  | .shli d imm => Sys2Proof.Machine.execShli d imm s
  | .shri d imm => Sys2Proof.Machine.execShri d imm s
  | .sari d imm => Sys2Proof.Machine.execSari d imm s
  | .seq d s1 => Sys2Proof.Machine.execSeq d s1 s
  | .slt d s1 => Sys2Proof.Machine.execSlt d s1 s
  | .sltn d s1 => Sys2Proof.Machine.execSltn d s1 s
  | .csel d s1 t => Sys2Proof.Machine.execCsel d s1 t s
  | .br disp => Sys2Proof.Machine.execBr disp s
  | .call disp => Sys2Proof.Machine.execCall disp s
  | .jr s1 => Sys2Proof.Machine.execJr s1 s
  | .jalr d s1 => Sys2Proof.Machine.execJalr d s1 s
  | .bz s1 disp => Sys2Proof.Machine.execBz s1 disp s
  | .bnz s1 disp => Sys2Proof.Machine.execBnz s1 disp s
  | .bltz s1 disp => Sys2Proof.Machine.execBltz s1 disp s
  | .bgez s1 disp => Sys2Proof.Machine.execBgez s1 disp s
  | .loop s1 disp => Sys2Proof.Machine.execLoop s1 disp s
  | .ld d m w => Sys2Proof.Machine.execLd d m w s
  | .ldsx d m w => Sys2Proof.Machine.execLdsx d m w s
  | .st m s1 w => Sys2Proof.Machine.execSt m s1 w s
  | .ldfe d m => Sys2Proof.Machine.execLdfe d m s
  | .stfe m s1 => Sys2Proof.Machine.execStfe m s1 s
  | .ldacq d m w => Sys2Proof.Machine.execLdacq d m w s
  | .strel m s1 w => Sys2Proof.Machine.execStrel m s1 w s
  | .amo d t m w op => Sys2Proof.Machine.execAmo d t m w op s
  | .cas d t m w => Sys2Proof.Machine.execCas d t m w s
  | .ifence scope => Sys2Proof.Machine.execIfence scope s
  | .fenceRel scope => Sys2Proof.Machine.execFenceRel scope s
  | .fenceAcq scope => Sys2Proof.Machine.execFenceAcq scope s
  | .fenceFull scope => Sys2Proof.Machine.execFenceFull scope s
  | .qwait d n => Sys2Proof.Machine.execQwait d n s
  | .gets d sel => Sys2Proof.Machine.execGets d sel s
  | .spawn d s1 t => Sys2Proof.Machine.execSpawn d s1 t s
  | .quit => Sys2Proof.Machine.execQuit s
  | .lea d m => Sys2Proof.Machine.execLea d m s
  | .fadd x d s1 rm => Sys2Proof.Machine.execFadd x d s1 rm s
  | .fsub x d s1 rm => Sys2Proof.Machine.execFsub x d s1 rm s
  | .fmul x d s1 rm => Sys2Proof.Machine.execFmul x d s1 rm s
  | .fdiv x d s1 rm => Sys2Proof.Machine.execFdiv x d s1 rm s
  | .fsqrt x d s1 rm => Sys2Proof.Machine.execFsqrt x d s1 rm s
  | .fma x d s1 t rm => Sys2Proof.Machine.execFma x d s1 t rm s
  | .fms x d s1 t rm => Sys2Proof.Machine.execFms x d s1 t rm s
  | .fnma x d s1 t rm => Sys2Proof.Machine.execFnma x d s1 t rm s
  | .fnms x d s1 t rm => Sys2Proof.Machine.execFnms x d s1 t rm s
  | .fmin x d s1 => Sys2Proof.Machine.execFmin x d s1 s
  | .fmax x d s1 => Sys2Proof.Machine.execFmax x d s1 s
  | .fminm x d s1 => Sys2Proof.Machine.execFminm x d s1 s
  | .fmaxm x d s1 => Sys2Proof.Machine.execFmaxm x d s1 s
  | .fabs x d s1 => Sys2Proof.Machine.execFabs x d s1 s
  | .fneg x d s1 => Sys2Proof.Machine.execFneg x d s1 s
  | .fcpys x d s1 => Sys2Proof.Machine.execFcpys x d s1 s
  | .fcmp x d s1 t c => Sys2Proof.Machine.execFcmp x d s1 t c s
  | .fclass x d s1 => Sys2Proof.Machine.execFclass x d s1 s
  | .fcvt x d s1 tt rm => Sys2Proof.Machine.execFcvt x d s1 tt rm s
  | .fcvti x d s1 tt rm => Sys2Proof.Machine.execFcvti x d s1 tt rm s
  | .icvtf x d s1 src rm => Sys2Proof.Machine.execIcvtf x d s1 src rm s
  | .frnd x d s1 rm => Sys2Proof.Machine.execFrnd x d s1 rm s
  | .frem x d s1 => Sys2Proof.Machine.execFrem x d s1 s
  | .fscalb x d s1 rm => Sys2Proof.Machine.execFscalb x d s1 rm s
  | .flogb x d s1 => Sys2Proof.Machine.execFlogb x d s1 s
  | .fget d ctl => Sys2Proof.Machine.execFget d ctl s
  | .fset s1 ctl => Sys2Proof.Machine.execFset s1 ctl s
  | .qpack x d s1 tt rm => Sys2Proof.Machine.execQpack x d s1 tt rm s
  | .bscl x d s1 tt => Sys2Proof.Machine.execBscl x d s1 tt s
  | .vadd x d s1 => Sys2Proof.Machine.execVadd x d s1 s
  | .vsub x d s1 => Sys2Proof.Machine.execVsub x d s1 s
  | .vmul x d s1 => Sys2Proof.Machine.execVmul x d s1 s
  | .vand x d s1 => Sys2Proof.Machine.execVand x d s1 s
  | .vor x d s1 => Sys2Proof.Machine.execVor x d s1 s
  | .vxor x d s1 => Sys2Proof.Machine.execVxor x d s1 s
  | .vshl x d s1 => Sys2Proof.Machine.execVshl x d s1 s
  | .vshr x d s1 => Sys2Proof.Machine.execVshr x d s1 s
  | .vsar x d s1 => Sys2Proof.Machine.execVsar x d s1 s
  | .vmin x d s1 => Sys2Proof.Machine.execVmin x d s1 s
  | .vmax x d s1 => Sys2Proof.Machine.execVmax x d s1 s
  | .vsadd x d s1 => Sys2Proof.Machine.execVsadd x d s1 s
  | .vcmp x d s1 t c => Sys2Proof.Machine.execVcmp x d s1 t c s
  | .vmov x d s1 => Sys2Proof.Machine.execVmov x d s1 s
  | .vld x d m => Sys2Proof.Machine.execVld x d m s
  | .vst x m s1 => Sys2Proof.Machine.execVst x m s1 s
  | .vgath x d m => Sys2Proof.Machine.execVgath x d m s
  | .vscat x m s1 => Sys2Proof.Machine.execVscat x m s1 s
  | .vbcast x d s1 => Sys2Proof.Machine.execVbcast x d s1 s
  | .vext x d s1 t => Sys2Proof.Machine.execVext x d s1 t s
  | .vins x d s1 t => Sys2Proof.Machine.execVins x d s1 t s
  | .vperm x d s1 t => Sys2Proof.Machine.execVperm x d s1 t s
  | .vslide x d s1 => Sys2Proof.Machine.execVslide x d s1 s
  | .vred x d s1 tree op rm => Sys2Proof.Machine.execVred x d s1 tree op rm s
  | .vscan x d s1 tree op rm => Sys2Proof.Machine.execVscan x d s1 tree op rm s
  | .vdot x d s1 t sat => Sys2Proof.Machine.execVdot x d s1 t sat s
  | .kop d s1 op => Sys2Proof.Machine.execKop d s1 op s
  | .tunp x d s1 => Sys2Proof.Machine.execTunp x d s1 s
  | .tacc x d s1 t => Sys2Proof.Machine.execTacc x d s1 t s
  | .qunp x d s1 => Sys2Proof.Machine.execQunp x d s1 s
  | .copy d swz => Sys2Proof.Machine.execCopy d swz s
  | .copy2d d swz => Sys2Proof.Machine.execCopy2d d swz s
  | .notice d => Sys2Proof.Machine.execNotice d s
  | .phinit d s1 => Sys2Proof.Machine.execPhinit d s1 s
  | .pharr d s1 scope => Sys2Proof.Machine.execPharr d s1 scope s
  | .phwait d s1 scope => Sys2Proof.Machine.execPhwait d s1 scope s
  | .phread d s1 scope => Sys2Proof.Machine.execPhread d s1 scope s
  | .mxprog s1 => Sys2Proof.Machine.execMxprog s1 s
  | .mxcfg n s1 => Sys2Proof.Machine.execMxcfg n s1 s
  | .mxgo => Sys2Proof.Machine.execMxgo s
  | .mma acc z fmt d s1 t count => Sys2Proof.Machine.execMma acc z fmt d s1 t count s
  | .mxldc acc tag s1 => Sys2Proof.Machine.execMxldc acc tag s1 s
  | .mxstc acc msk d s1 tt rm => Sys2Proof.Machine.execMxstc acc msk d s1 tt rm s
  | .mxmask s1 => Sys2Proof.Machine.execMxmask s1 s
  | .mxrcmd d => Sys2Proof.Machine.execMxrcmd d s
  | .mxunf s1 => Sys2Proof.Machine.execMxunf s1 s
  | .mxzero acc => Sys2Proof.Machine.execMxzero acc s
  | .rpnew d s1 => Sys2Proof.Machine.execRpnew d s1 s
  | .rpcat d s1 => Sys2Proof.Machine.execRpcat d s1 s
  | .rpsplit d s1 => Sys2Proof.Machine.execRpsplit d s1 s
  | .rpsplice d s1 keep => Sys2Proof.Machine.execRpsplice d s1 keep s
  | .rplen d s1 => Sys2Proof.Machine.execRplen d s1 s
  | .rpsum d s1 n => Sys2Proof.Machine.execRpsum d s1 n s
  | .rpfind d s1 => Sys2Proof.Machine.execRpfind d s1 s
  | .rpscan d s1 => Sys2Proof.Machine.execRpscan d s1 s
  | .rphold d => Sys2Proof.Machine.execRphold d s
  | .rpdrop d => Sys2Proof.Machine.execRpdrop d s
  | .rpdesc d s1 => Sys2Proof.Machine.execRpdesc d s1 s
  | .rprefr d => Sys2Proof.Machine.execRprefr d s
  | .rand d s1 u => Sys2Proof.Machine.execRand d s1 u s
  | .accept d s1 => Sys2Proof.Machine.execAccept d s1 s
  | .spobs d s1 => Sys2Proof.Machine.execSpobs d s1 s
  | .spobsSet d s1 => Sys2Proof.Machine.execSpobsSet d s1 s
  | .spshape d s1 => Sys2Proof.Machine.execSpshape d s1 s
  | .spshapeSet d s1 => Sys2Proof.Machine.execSpshapeSet d s1 s
  | .topk d s1 => Sys2Proof.Machine.execTopk d s1 s
  | .unmset d s1 => Sys2Proof.Machine.execUnmset d s1 s
  | .unmrank d s1 => Sys2Proof.Machine.execUnmrank d s1 s
  | .unmdirty d s1 => Sys2Proof.Machine.execUnmdirty d s1 s
  | .unmclr d s1 => Sys2Proof.Machine.execUnmclr d s1 s
  | .baddq d s1 t fmt keep rm => Sys2Proof.Machine.execBaddq d s1 t fmt keep rm s
  | .gwtake d s1 => Sys2Proof.Machine.execGwtake d s1 s
  | .brf s1 t => Sys2Proof.Machine.execBrf s1 t s
  | .callf d s1 t => Sys2Proof.Machine.execCallf d s1 t s
  | .sysc code => Sys2Proof.Machine.execSysc code s
  | .brk code => Sys2Proof.Machine.execBrk code s
  | .trapret skip => Sys2Proof.Machine.execTrapret skip s
  | .getx d sel => Sys2Proof.Machine.execGetx d sel s
  | .setth s1 => Sys2Proof.Machine.execSetth s1 s
  | .gsignal d => Sys2Proof.Machine.execGsignal d s
  | .gfail d => Sys2Proof.Machine.execGfail d s
  | .segnar sg s1 t => Sys2Proof.Machine.execSegnar sg s1 t s
  | .chkpt n => Sys2Proof.Machine.execChkpt n s
  | .wake d => Sys2Proof.Machine.execWake d s
  | .prd d s1 => Sys2Proof.Machine.execPrd d s1 s
  | .pwr d s1 => Sys2Proof.Machine.execPwr d s1 s
  | .slotsv d s1 => Sys2Proof.Machine.execSlotsv d s1 s
  | .slotld d s1 => Sys2Proof.Machine.execSlotld d s1 s
  | .haltat d s1 => Sys2Proof.Machine.execHaltat d s1 s
  | .flushtk d => Sys2Proof.Machine.execFlushtk d s
  | .pginv d s1 => Sys2Proof.Machine.execPginv d s1 s
  | .pgresume d s1 => Sys2Proof.Machine.execPgresume d s1 s
  | .ptagset d s1 => Sys2Proof.Machine.execPtagset d s1 s
  | .calset d s1 => Sys2Proof.Machine.execCalset d s1 s
  | .glaunch d s1 => Sys2Proof.Machine.execGlaunch d s1 s
  | .gcancel d s1 => Sys2Proof.Machine.execGcancel d s1 s
  | .scrub d s1 => Sys2Proof.Machine.execScrub d s1 s
  | .capmk d s1 => Sys2Proof.Machine.execCapmk d s1 s
  | .travrepl d s1 => Sys2Proof.Machine.execTravrepl d s1 s
  | .slotAllocate n1 => Sys2Proof.Machine.execSlotAllocate n1 s
  | .copyStreamerRun n1 j => Sys2Proof.Machine.execCopyStreamerRun n1 j s
  | .copyChunkCount n1 j => Sys2Proof.Machine.execCopyChunkCount n1 j s
  | .noticePull n1 => Sys2Proof.Machine.execNoticePull n1 s
  | .engineErrorReport c n => Sys2Proof.Machine.execEngineErrorReport c n s
  | .phwaitReread c n => Sys2Proof.Machine.execPhwaitReread c n s
  | .matrixUnitTake c => Sys2Proof.Machine.execMatrixUnitTake c s
  | .mxrcmdArrival n1 => Sys2Proof.Machine.execMxrcmdArrival n1 s
  | .matrixOpStart c => Sys2Proof.Machine.execMatrixOpStart c s
  | .matrixOpComplete c => Sys2Proof.Machine.execMatrixOpComplete c s
  | .ropeEngineRun k => Sys2Proof.Machine.execRopeEngineRun k s
  | .engineTakeOperation u k n1 => Sys2Proof.Machine.execEngineTakeOperation u k n1 s
  | .engineMailboxPost n1 => Sys2Proof.Machine.execEngineMailboxPost n1 s
  | .travelArrival n1 => Sys2Proof.Machine.execTravelArrival n1 s
  | .arrivalQueueLand c => Sys2Proof.Machine.execArrivalQueueLand c s
  | .granaryToArrivalQueue c => Sys2Proof.Machine.execGranaryToArrivalQueue c s
  | .travelCongestion c n => Sys2Proof.Machine.execTravelCongestion c n s
  | .holderAdvertise c => Sys2Proof.Machine.execHolderAdvertise c s
  | .wakeArrival n1 => Sys2Proof.Machine.execWakeArrival n1 s
  | .bankPerform n1 j => Sys2Proof.Machine.execBankPerform n1 j s
  | .relaxedReply n1 => Sys2Proof.Machine.execRelaxedReply n1 s
  | .relaxedFault c n => Sys2Proof.Machine.execRelaxedFault c n s
  | .fullEmptyServe c n => Sys2Proof.Machine.execFullEmptyServe c n s
  | .linkEntryArrival c d => Sys2Proof.Machine.execLinkEntryArrival c d s
  | .groupPlace n1 => Sys2Proof.Machine.execGroupPlace n1 s
  | .imageCopy c n1 => Sys2Proof.Machine.execImageCopy c n1 s
  | .threadStart c n => Sys2Proof.Machine.execThreadStart c n s
  | .threadStop c n => Sys2Proof.Machine.execThreadStop c n s
  | .nodeDispatch gk n1 => Sys2Proof.Machine.execNodeDispatch gk n1 s
  | .nodeComplete gk n1 => Sys2Proof.Machine.execNodeComplete gk n1 s
  | .nodeFault n1 => Sys2Proof.Machine.execNodeFault n1 s
  | .nodeRetry gk n1 => Sys2Proof.Machine.execNodeRetry gk n1 s
  | .walkStep gk => Sys2Proof.Machine.execWalkStep gk s
  | .cancellingFinish gk n1 => Sys2Proof.Machine.execCancellingFinish gk n1 s
  | .graphComplete gk => Sys2Proof.Machine.execGraphComplete gk s
  | .interruptTake c => Sys2Proof.Machine.execInterruptTake c s
  | .granaryWriteback k n1 => Sys2Proof.Machine.execGranaryWriteback k n1 s
  | .imageSeal k n1 => Sys2Proof.Machine.execImageSeal k n1 s
  | .tenantStop p => Sys2Proof.Machine.execTenantStop p s
  | .threadHalt c n => Sys2Proof.Machine.execThreadHalt c n s
  | .debugHalt c n => Sys2Proof.Machine.execDebugHalt c n s
  | .translationWalk n1 j => Sys2Proof.Machine.execTranslationWalk n1 j s
  | .pageRequestEntry die => Sys2Proof.Machine.execPageRequestEntry die s
  | .pageWake n1 => Sys2Proof.Machine.execPageWake n1 s
  | .migration die => Sys2Proof.Machine.execMigration die s
  | .scrubSweep n1 => Sys2Proof.Machine.execScrubSweep n1 s
  | .packetEject n1 j => Sys2Proof.Machine.execPacketEject n1 j s
  | .furlongBoundary hop => Sys2Proof.Machine.execFurlongBoundary hop s
  | .tokenRefill die => Sys2Proof.Machine.execTokenRefill die s
  | .gwstartWrite port x => Sys2Proof.Machine.execGwstartWrite port x s
  | .uePacketReceive port pkt => Sys2Proof.Machine.execUePacketReceive port pkt s
  | .inboundDma req => Sys2Proof.Machine.execInboundDma req s
  | .illegalInstruction word idx reason => Sys2Proof.Machine.execIllegalInstruction word idx reason s
  | .instructionFetchFault rights => Sys2Proof.Machine.execInstructionFetchFault rights s
  | .scrplReplyWrite c n x => Sys2Proof.Machine.execScrplReplyWrite c n x s
  | .capkeyWrite p w x => Sys2Proof.Machine.execCapkeyWrite p w x s
  | .lctWrite p n x => Sys2Proof.Machine.execLctWrite p n x s
  | .granwbWrite k x => Sys2Proof.Machine.execGranwbWrite k x s
  | .wlogRead p => Sys2Proof.Machine.execWlogRead p s
  | .miggoWrite die x => Sys2Proof.Machine.execMiggoWrite die x s
  | .lctlWrite port x => Sys2Proof.Machine.execLctlWrite port x s
  | .linkTrained port seen farRates => Sys2Proof.Machine.execLinkTrained port seen farRates s
  | .linkDown port => Sys2Proof.Machine.execLinkDown port s
  | .flitReplay port => Sys2Proof.Machine.execFlitReplay port s
  | .gwdataRead port => Sys2Proof.Machine.execGwdataRead port s
  | .gwdataWrite port x => Sys2Proof.Machine.execGwdataWrite port x s
  | .flowOpen port p f x => Sys2Proof.Machine.execFlowOpen port p f x s
  | .flowClose port p f x => Sys2Proof.Machine.execFlowClose port p f x s
  | .storagePortTrain gen lanes => Sys2Proof.Machine.execStoragePortTrain gen lanes s
  | .mextWrite x => Sys2Proof.Machine.execMextWrite x s
  | .asignWrite x => Sys2Proof.Machine.execAsignWrite x s
  | .registerWrite addr x => Sys2Proof.Machine.execRegisterWrite addr x s
  | .readBufferEviction k n1 => Sys2Proof.Machine.execReadBufferEviction k n1 s
  | .intqRead => Sys2Proof.Machine.execIntqRead s
  | .deviceReset => Sys2Proof.Machine.execDeviceReset s
  | .attestationDone => Sys2Proof.Machine.execAttestationDone s
  | .powerLimit => Sys2Proof.Machine.execPowerLimit s
  | .thermalTrip => Sys2Proof.Machine.execThermalTrip s
  | .powerBelowLimit => Sys2Proof.Machine.execPowerBelowLimit s
  | .yield => Sys2Proof.Machine.execYield s
  | .iret => Sys2Proof.Machine.execIret s
  | .graphAccept => Sys2Proof.Machine.execGraphAccept s

end Sys2Proof.Machine
end

