-- ==== Sys2Proof/Machine/Schedule.lean ====
section
/-! DEFINITION. Which slot a core issues from and which step the device takes by itself (R64, R65, entry 5). -/

namespace Sys2Proof.Machine

/-- A step the device takes by itself: an operation that is no instruction, but for the two outcomes of a fetch. -/
def isDeviceStep : Instr → Bool
  | .illegalInstruction _ _ _ => false
  | .instructionFetchFault _ => false
  | i => (encode i).isEmpty

/-- The cycle of an armed stop of a partition has come: its threads issue no more (R296). -/
def State.stopDue (s : State) (p : Nat) : Bool := s.stops.any (fun x => x.part == p && (x.fired || decide (x.cycle ≤ s.counter)))

/-- A slot has not issued in any of the three preceding cycles (R64). -/
def State.rested (s : State) (c n : Nat) : Bool :=
  let v := mget 0 n (s.core c).issued
  v == 0 || decide (v + 3 ≤ s.counter)

/-- The end of an acquire whose read is made: the result is written, the read buffers of its scope are dropped and the thread goes on at
the next group, or takes the trap of a queue or link that is not its own by now; a push without room is awaited (R45, R101 to R103). -/
def State.endAcquire (s : State) (c n : Nat) (t : Thread) (h : Held) : Option State :=
  let s1 := { s with cur := { s.cur with core := c, slot := n, pc := t.pc } }
  match (match h.res with | some (d, x) => atomically s1 (writeO s1 d x) | none => .ok s1) with
  | .ok s2 => some ((s2.invalidate h.scope).modThread c n (fun t => { t with pc := h.next, wait := .ready }))
  | .error (.trap cause v) => some (s.takeTrap c n cause v t.pc t.pc ((h.next - t.pc).toNat / 2) false)
  | .error _ => none

/-- The end of the acquire a thread waits in, where it can end: its replies are there (R101). -/
def State.acquired (s : State) (c n : Nat) : Option State :=
  match s.thread? c n with
  | some t => (match t.wait with
    | .acquire h => if s.returned t.uid ∧ t.ctl ≠ .stopReq then s.endAcquire c n t h else none
    | _ => none)
  | none => none

/-- A thread is inside an instruction that has made accesses and makes its next one: it does not wait for an issue turn. -/
def Thread.goesOn (t : Thread) : Bool :=
  !t.trail.isEmpty && (match t.wait with | .ready | .poll _ => true | _ => false) &&
    (match t.ctl with | .stopReq | .halted _ => false | _ => true)

/-- An interrupt is due at the next group boundary of this slot (R287). -/
def State.interruptDue (s : State) (c n : Nat) (t : Thread) : Bool :=
  isService c && (s.core c).ien && decide ((s.core c).islot.val = n) && !s.io.intq.isEmpty && t.interruptible

/-- Issue from a slot (R64): an acquire that can end ends, an instruction that has made accesses goes on; else an interrupt or a report is
taken first, a thread that must leave leaves. -/
def State.issueSlot (s : State) (c n : Nat) : Issued :=
  match s.thread? c n with
  | none => .over s
  | some t =>
    match s.acquired c n with
    | some s' => .over s'
    | none =>
      if t.goesOn then s.fetch c n
      else if s.stopDue (s.core c).tag.val = true then .over s
      else if s.interruptDue c n t then .over (s.takeInterrupt c)
      else if ¬ t.atBoundary ∨ ¬ s.rested c n then .over s
      else if t.reports ≠ [] then .over (s.takeReport c n)
      else match t.leave with
        | some l => .over (s.leaveStep c n l)
        | none => s.fetch c n

/-- What a slot does with its turn. -/
def State.turn (s : State) (c n : Nat) : Host.Outcome State Fault Refusal :=
  match s.issueSlot c n with
  | .over s' => .next s'
  | .run s' i => exec i s'

/-- A group that cannot take its pops and push, or waits for the thread's own accesses or for a wake, has not issued (R46, R65). -/
def Poll.unissued : Poll → Bool
  | .queue | .qwait | .drain | .pending | .yield => true
  | _ => false

/-- A turn that only finds the slot still waiting: such a slot is not ready and takes no issue turn (R64, R65, R113). A group that waits
leaves the boot controller alone. -/
def State.idleTurn (s : State) (c n : Nat) : Host.Outcome State Fault Refusal → Bool
  | .next t =>
    let before := s.thread c n
    let after := t.thread c n
    (match after.wait with | .poll q => q.unissued || before.wait == after.wait | _ => false) &&
      decide (({ t with cur := {}, boot := {} } : State).setThread c n { after with wait := before.wait, fbuf := before.fbuf } =
        { s with cur := {}, boot := {} })
  | _ => false

/-- The slot issued: it is the last one, in this cycle (R64). -/
def State.noteIssue (s : State) (c n : Nat) : State :=
  s.modCore c (fun k => { k with last := n, issued := mput n (s.counter + 1) k.issued })

/-- A slot that may take its turn, as far as its thread's control and its last issue say. -/
def State.standing (s : State) (c n : Nat) : Bool :=
  match s.thread? c n with
  | some t => t.atBoundary && s.rested c n
  | none => false

/-- The slots of a core in the order in which it looks for one to issue from (R64). -/
def Core.order (k : Core) : List Nat := (List.range 32).map (fun i => (k.last + 1 + i) % 32)

/-- The slot whose turn it is on a core: the first eligible one after the last that issued, in circular order; one that is found still
waiting is not eligible (R64, R65, R66). -/
def State.pick (s : State) (c : Nat) : Option Nat :=
  if s.stopDue (s.core c).tag.val then none
  else (s.core c).order.find? (fun n => s.standing c n && !s.idleTurn c n (s.turn c n))

/-- A slot that goes on without an issue turn: its acquire ends, or its instruction makes its next access (R101, entries 31 and 68). -/
def State.continues (s : State) (c n : Nat) : Bool :=
  (s.acquired c n).isSome || ((s.thread c n).goesOn && !s.idleTurn c n (s.turn c n))

/-- The cores, those after the one that issued last first. -/
def State.coreOrder (s : State) : List Nat :=
  let keys := s.cores.map (fun e => e.1)
  keys.filter (fun c => decide (s.cur.core < c)) ++ keys.filter (fun c => !decide (s.cur.core < c))

/-- The next core and slot: one that goes on, else the one whose turn it is, cores in turn after the one that issued last. -/
def State.pickSlot (s : State) : Option (Nat × Nat) :=
  match s.coreOrder.findSome? (fun c => ((s.core c).order.find? (s.continues c)).map (fun n => (c, n))) with
  | some p => some p
  | none => s.coreOrder.findSome? (fun c => (s.pick c).map (fun n => (c, n)))

/-- The first slot that stands ready to issue, whatever its group is. -/
def State.firstStanding (s : State) : Option (Nat × Nat) :=
  s.coreOrder.findSome? (fun c => ((s.core c).order.find? (s.standing c)).map (fun n => (c, n)))

/-! ## The device's steps -/

/-- Steps of accesses, copies, requests and messages on their way. -/
def State.flightSteps (s : State) : List Instr :=
  (List.range s.net.length).flatMap (fun i =>
    (List.range ((s.net[i]?).map (fun a => a.pieces.length) |>.getD 0)).flatMap (fun j =>
      [Instr.translationWalk i j, Instr.packetEject i j, Instr.bankPerform i j]) ++ [Instr.relaxedReply i]) ++
  (List.range s.posts.length).map Instr.engineMailboxPost ++ (List.range s.spawns.length).map Instr.slotAllocate ++
  (List.range s.wakes.length).map Instr.wakeArrival ++ (List.range s.pageWakes.length).map Instr.pageWake ++
  (List.range s.rcmds.length).map Instr.mxrcmdArrival ++ (List.range s.pkts.length).map Instr.travelArrival ++
  (List.range s.copies.length).flatMap (fun i =>
    (List.range ((s.copies[i]?).map (fun c => c.uncounted.length) |>.getD 0)).map (Instr.copyChunkCount i) ++
    [Instr.copyStreamerRun i 0]) ++
  (s.waits.filter (fun w => !w.paused)).map (fun w => w.who) ++
  (List.range s.nfaults.length).map Instr.nodeFault ++ (List.range s.scrubs.length).map Instr.scrubSweep

/-- Steps of a slot of a core. -/
def slotSteps (c n : Nat) : List Instr :=
  [Instr.relaxedFault c n, Instr.engineErrorReport c n, Instr.phwaitReread c n, Instr.fullEmptyServe c n, Instr.threadStart c n,
   Instr.threadStop c n, Instr.threadHalt c n, Instr.debugHalt c n, Instr.travelCongestion c n]

/-- Steps of a core. -/
def coreSteps (c : Nat) (x : Core) : List Instr :=
  x.slots.flatMap (fun e => slotSteps c e.1) ++ [Dir.n, .e, .s, .w].map (Instr.linkEntryArrival c) ++
  (List.range x.claims.length).map (Instr.imageCopy c) ++
  [Instr.matrixUnitTake c, Instr.matrixOpStart c, Instr.matrixOpComplete c, Instr.arrivalQueueLand c, Instr.granaryToArrivalQueue c,
   Instr.interruptTake c] ++
  (if x.arrq.isEmpty then [] else [Instr.holderAdvertise c])

/-- Steps of a cluster. -/
def cluSteps (k : Nat) (x : Cluster) : List Instr :=
  [Instr.noticePull k, Instr.ropeEngineRun k, Instr.engineTakeOperation .gen k 0, Instr.engineTakeOperation .unm k 0] ++
  (List.range x.places.length).map (Instr.imageSeal k) ++
  (List.range (x.places.length + x.descs.length)).map (Instr.granaryWriteback k) ++
  x.adv.map (fun e => Instr.holderAdvertise e.1)

/-- Steps of the graph scheduler and the dispatchers. -/
def State.graphSteps (s : State) : List Instr :=
  s.graphs.flatMap (fun e => (List.range e.2.nodes.length).flatMap (fun i =>
    [Instr.nodeDispatch e.1 i, Instr.nodeComplete e.1 i, Instr.nodeRetry e.1 i, Instr.cancellingFinish e.1 i]) ++
    [Instr.walkStep e.1, Instr.graphComplete e.1]) ++
  (List.range s.waiting.length).map Instr.groupPlace ++ [Instr.graphAccept]

/-- The steps the device may take by itself. -/
def State.deviceSteps (s : State) : List Instr :=
  s.flightSteps ++ s.stops.map (fun x => Instr.tenantStop x.part) ++ s.cores.flatMap (fun e => coreSteps e.1 e.2) ++
  s.clusters.flatMap (fun e => cluSteps e.1 e.2) ++ s.graphSteps ++
  s.ports.flatMap (fun e => (List.range e.2.gwq.length).map (Instr.engineTakeOperation .gw e.1)) ++
  s.dies.flatMap (fun e => [Instr.pageRequestEntry e.1, Instr.migration e.1, Instr.tokenRefill e.1]) ++
  s.io.calPend.map (fun c => Instr.furlongBoundary c.hop) ++ [Instr.attestationDone]

/-- A device step that changes the part. -/
def State.moves? (s : State) (i : Instr) : Bool :=
  match exec i s with
  | .next t => decide ({ t with cur := s.cur } ≠ s)
  | _ => false

/-- The move the part takes when none is prescribed: a step of the device, else the next slot in turn (entry 5). -/
def State.autoMove (s : State) : Option Move :=
  match s.deviceSteps.find? s.moves? with
  | some i => some (.event i)
  | none => s.pickSlot.map (fun (p : Nat × Nat) => .issue p.1 p.2)

end Sys2Proof.Machine
end

