-- ==== Sys2Proof/Machine/Step.lean ====
section
/-! DEFINITION. One step of the part: the move the schedule gives, or the one the part takes by itself (entry 5). -/

namespace Sys2Proof.Machine

/-- The state after a step: every waiting PHWAIT has read its word, and it is one cycle later (R110, R165, entries 6 and 31). -/
def bump : Host.Outcome State Fault Refusal → Host.Outcome State Fault Refusal
  | .next s => .next { s.phaseReads with counter := s.counter + 1 }
  | o => o

/-- A turn of a slot noted, if it issued an instruction. -/
def State.noted (s : State) (c n : Nat) : Host.Outcome State Fault Refusal :=
  match s.issueSlot c n with
  | .over s' => .next s'
  | .run s' i =>
    match exec i s' with
    | .next t => .next (t.noteIssue c n)
    | .fault f => .fault f
    | .refused r => .refused r

/-- Issue from a slot: it executes its group when its turn has come (R64, R66); a group that is found waiting issues nothing, and an acquire
that ends or an instruction that goes on takes no turn (R65). -/
def stepIssue (s : State) (c n : Nat) : Host.Outcome State Fault Refusal :=
  if s.idleTurn c n (s.turn c n) ∨ s.continues c n then s.turn c n
  else if s.pick c = some n then s.noted c n
  else .next s

/-- Whether the accesses of the move at hand are performed piece by piece (R91, entry 68). -/
def State.splits (s : State) (b : Bool) : State := { s with cur := { s.cur with split := b } }

/-- A step the device takes by itself. -/
def stepEvent (s : State) (i : Instr) : Host.Outcome State Fault Refusal := if isDeviceStep i then exec i s else .next s

/-- Take a move. -/
def stepMove (s : State) (m : Move) : Host.Outcome State Fault Refusal :=
  match m with
  | .issue c n => stepIssue (s.splits false) c n
  | .issuePieces c n => stepIssue (s.splits true) c n
  | .event i => stepEvent (s.splits false) i
  | .eventPieces i => stepEvent (s.splits true) i

/-- One step. A part whose boot controller has halted takes no step but a device reset (R379, R381). -/
def step (s : State) : Host.Outcome State Fault Refusal :=
  match s.boot.halt, s.moves with
  | some _, .event .deviceReset :: ms => bump (exec .deviceReset { s with moves := ms })
  | some code, _ => .fault (.bootHalted code)
  | none, m :: ms => bump (stepMove { s with moves := ms } m)
  | none, [] =>
    match s.autoMove with
    | some m => bump (stepMove s m)
    | none => bump (.next s)

/-- s with an instruction stored where the next step fetches: the words in core store at the program counter of the slot that
issues next, its fetch buffer empty. -/
def State.withFetchWord (s : State) (nbits w : Nat) : State :=
  let (c, n) := s.firstStanding.getD (2048, 0)
  let t := s.thread c n
  let a := t.sg[0].base.toNat + t.pc.toNat
  let bs := (tableWords nbits w ++ [0, 0, 0]).flatMap (fun (h : Half) => [BitVec.ofNat 8 h.toNat, BitVec.ofNat 8 (h.toNat / 256)])
  let s := s.modCore c (fun k => { k with mem := wrBytes k.mem (a % 0x80000) bs })
  { (s.setThread c n { t with fbuf := none }) with moves := [.issue c n] }

end Sys2Proof.Machine
end

