-- ==== Sys2Proof/Safety.lean ====
section
/-! DEFINITION. What counts as a safe run and the terms claims are stated in: the canonical form of every store, what a step leaves
alone, the operands an instruction takes. -/

namespace Sys2Proof.Machine

/-- A state every store of which is in its canonical form. -/
def State.memoriesWf (s : State) : Prop :=
  s.kns.wf = true ∧ (∀ e ∈ s.cores, e.2.mem.wf = true) ∧ ∀ e ∈ s.clusters, e.2.mem.wf = true

/-! ## What a step leaves alone -/

/-- Every byte of every store reads as before. -/
def SameMemory (s t : State) : Prop :=
  (∀ c a, rdB (t.core c).mem a = rdB (s.core c).mem a) ∧ (∀ k a, rdB (t.clu k).mem a = rdB (s.clu k).mem a) ∧
    ∀ a, rdB t.kns a = rdB s.kns a

/-- Every byte reads as before but for the n bytes at a place: of a core store, of a cluster store, or the KNS memory frame. -/
def SameMemoryBut (s t : State) (l : Loc) (n : Nat) : Prop :=
  (∀ c a, (∀ b, l = .core c b → a < b ∨ b + n ≤ a) → rdB (t.core c).mem a = rdB (s.core c).mem a) ∧
  (∀ k a, (∀ b, l = .clu k b → a < b ∨ b + n ≤ a) → rdB (t.clu k).mem a = rdB (s.clu k).mem a) ∧
  (∀ a, (∀ pkg pa, l = .kns pkg pa → a < knsKey pkg pa ∨ knsKey pkg pa + n ≤ a) → rdB t.kns a = rdB s.kns a)

/-- Every byte reads as before but for the n bytes at each of some places. -/
def SameMemoryButAll (s t : State) (ls : List Loc) (n : Nat) : Prop :=
  (∀ c a, (∀ b, .core c b ∈ ls → a < b ∨ b + n ≤ a) → rdB (t.core c).mem a = rdB (s.core c).mem a) ∧
  (∀ k a, (∀ b, .clu k b ∈ ls → a < b ∨ b + n ≤ a) → rdB (t.clu k).mem a = rdB (s.clu k).mem a) ∧
  (∀ a, (∀ pkg pa, .kns pkg pa ∈ ls → a < knsKey pkg pa ∨ knsKey pkg pa + n ≤ a) → rdB t.kns a = rdB s.kns a)

/-- Only slots of cores differ: every other part of the machine, and every other part of each core, is as before. -/
def OnlySlots (s t : State) : Prop :=
  { t with cores := s.cores } = s ∧ ∀ c, { t.core c with slots := (s.core c).slots } = s.core c

/-- Only the thread being issued differs, and of that thread the program counter, the wait, what its group has done or been answered so far,
and the registers that `keep` gives back. -/
def OnlyThread (s t : State) (keep : Thread → Thread → Thread) : Prop :=
  OnlySlots s t ∧ (∀ c n, (c ≠ s.cur.core ∨ n ≠ s.cur.slot) → t.thread? c n = s.thread? c n) ∧
    { keep s.cth t.cth with pc := s.cth.pc, wait := s.cth.wait, poisoned := s.cth.poisoned, trail := s.cth.trail } = s.cth

/-- The second thread with the g registers of the first. -/
def keepG (a b : Thread) : Thread := { b with g := a.g }
/-- The second thread with the v registers and FFLG of the first. -/
def keepV (a b : Thread) : Thread := { b with v := a.v, fflg := a.fflg }
/-- The second thread with the k registers and FFLG of the first. -/
def keepK (a b : Thread) : Thread := { b with k := a.k, fflg := a.fflg }

/-- The thread being issued stays in its slot, at the boundary after its group, ready to go on, with no trap taken. -/
def WentOn (s t : State) : Prop :=
  t.cth.pc = s.nextPc ∧ t.cth.wait = .ready ∧ t.cth.ctl = s.cth.ctl ∧ t.cth.xcause = s.cth.xcause ∧ t.cth.xpc = s.cth.xpc ∧
    t.cth.xval = s.cth.xval ∧ t.cth.xstat = s.cth.xstat

/-! ## Operands -/

/-- The operands d and S of a two-address group, taken in the order of R46, and the state after their pops. -/
def TakesTwo (s : State) (d : Opnd) (o : Src) (a b : Dword) (t : State) : Prop :=
  ∃ s1, readO s d = .ok (a, s1) ∧ readS s1 o = .ok (b, t)

/-- The registers of the page-0 space that an operand names. -/
def gsOf : Opnd → List (Fin 24)
  | .g r => [r]
  | _ => []

/-- The two-address instructions of R155 and R156. -/
def twoAddressForms : List (Opnd → Src → Instr) :=
  [.add, .sub, .mul, .mulh, .mulhn, .div, .divn, .rem, .remn, .and, .or, .xor, .andn, .shl, .shr, .sar, .rol, .min, .max, .minn, .maxn,
   .seq, .slt, .sltn]

/-- No outstanding relaxed access names one of these registers (R94). -/
def State.readable (s : State) (rs : List (Fin 24)) : Prop := ∀ r ∈ rs, s.gPending s.cth.uid r = false

/-- The thread being issued stands in its slot. -/
def State.issuing (s : State) : Prop := (s.thread? s.cur.core s.cur.slot).isSome = true

/-- An instruction of page 0 whose destination and sources are g registers and immediates: its destination and its sources. -/
def regForm : Instr → Option (Fin 24 × List (Fin 24))
  | .add (.g d) o | .sub (.g d) o | .mul (.g d) o | .mulh (.g d) o | .mulhn (.g d) o | .div (.g d) o | .divn (.g d) o
  | .rem (.g d) o | .remn (.g d) o | .and (.g d) o | .or (.g d) o | .xor (.g d) o | .andn (.g d) o | .shl (.g d) o
  | .shr (.g d) o | .sar (.g d) o | .rol (.g d) o | .min (.g d) o | .max (.g d) o | .minn (.g d) o | .maxn (.g d) o
  | .seq (.g d) o | .slt (.g d) o | .sltn (.g d) o =>
    (match o with
     | .op (.g r) => some (d, [d, r])
     | .imm _ => some (d, [d])
     | _ => none)
  | .clz (.g d) (.g r) | .ctz (.g d) (.g r) | .popc (.g d) (.g r) | .mov (.g d) (.g r) | .ext (.g d) (.g r) _ _ => some (d, [r])
  | .movi (.g d) _ => some (d, [])
  | .addi (.g d) _ | .shli (.g d) _ | .shri (.g d) _ | .sari (.g d) _ => some (d, [d])
  | .csel d (.g r) (.g c) => some (d, [r, c])
  | _ => none

/-- The place an access stores to: the frame a global address maps to, else the place itself. -/
def State.storedAt (s : State) (l : Loc) : Loc :=
  match l with
  | .glob va => (match s.peek (cluOf s.cur.core) s.ctag va with
    | some (x, big) => physLoc (leafPhys x big va).1 (leafPhys x big va).2
    | none => l)
  | l => l

/-- The thread being issued may perform an operation on n bytes of its own core store or of another place of its partition now: no
earlier relaxed access of it to those banks is outstanding (R95), the router lets it in (R355), the package is linked and no watchpoint
is hit (R335). -/
def State.unhindered (s : State) (l : Loc) (n : Nat) (op : POp) : Prop :=
  s.bankBusy s.cth.uid l n = false ∧ s.ejects s.ctag l n = none ∧ s.linked ((locPkg l).getD s.boot.pkg) = true ∧
    (s.ctag = 0 ∨ s.watchHit s.ctag l n op = none)

/-- The access of a global address reaches a frame of KNS memory: the leaf of its page grants the right, is not poisoned, names KNS
memory of a linked package whose words are sound, tokens are not limited and no migration holds the page. -/
def State.reaches (s : State) (va n : Nat) (op : POp) (pkg pa : Nat) : Prop :=
  ∃ x big, s.peek (cluOf s.cur.core) s.ctag va = some (x, big) ∧ leafPhys x big va = (pkg, pa) ∧
    pteRights x &&& opRight op ≠ 0 ∧ ptePoison x = false ∧ inWindowRange pa = false ∧ s.linked pkg = true ∧
    s.badAt pkg pa n = false ∧ (s.die (stackDie pkg pa)).qosctl.getLsbD 0 = false ∧
    s.cth.poisoned ≠ some (pageKey (cluOf s.cur.core) s.ctag va) ∧ s.migHeld s.ctag va op = false ∧
    s.bankBusy s.cth.uid (.glob va) n = false ∧ (s.ctag = 0 ∨ s.watchHit s.ctag (.glob va) n op = none)

/-- The value of the register base of a memory operand with the operand's offset, modulo 2^64 (R206). -/
def offsetOf (s : State) (m : MemOp) : Dword := s.cth.g[m.base.val] + m.off

/-- The place where a piece is performed: the frame its way has led it to, else its own. -/
def Piece.place (p : Piece) : Loc := match p.phys with | some (pkg, pa) => .kns pkg pa | none => p.loc

/-- The n bytes at a place of a core or cluster store, as a number. -/
def State.bytesAt (s : State) (l : Loc) (n : Nat) : Nat :=
  match l with
  | .core c a => rdLE (s.core c).mem a n
  | .clu k a => rdLE (s.clu k).mem a n
  | _ => 0

/-- An element of n bytes at offset o of a segment, for a right, is an ordinary access to a place of a core or cluster store that the thread
may make now: its checks pass, and nothing hinders it there (R38, R197). -/
def State.elementAt (s : State) (m : MemOp) (o : Dword) (n right : Nat) (op : POp) (l : Loc) : Prop :=
  ((∃ c a, l = .core c a) ∨ ∃ k a, l = .clu k a) ∧ (∃ ra, s.segCheck m.sg o n right (denyWindow n) = .ok (l, ra)) ∧
    s.isRelaxed m.cls l = false ∧ s.unhindered l n op

/-- A byte of a core or cluster store, b before, after stores of n bytes at some places, one after another: the last that covers it gives it
its value. -/
def storedByte (n : Nat) (stores : List (Loc × Nat)) (l : Loc) (b : Byte) : Byte :=
  stores.foldl (fun b e => match l, e.1 with
    | .core c a, .core c' x => if c = c' ∧ x ≤ a ∧ a < x + n then BitVec.ofNat 8 (e.2 / 2 ^ (8 * (a - x))) else b
    | .clu k a, .clu k' x => if k = k' ∧ x ≤ a ∧ a < x + n then BitVec.ofNat 8 (e.2 / 2 ^ (8 * (a - x))) else b
    | _, _ => b) b

/-- The machine in which BADDQ stores: its sources read, one after another, those it has read before taken from its trail; none where one of
them is not read in this step (R204). -/
def State.sourcesRead (s : State) (as : List Dword) : Option State :=
  as.foldl (fun (x : Option State) a => match x with
    | some u => (match u.onceAddress a 64 .rd with | .ok (v, _) => some v | .error _ => none)
    | none => none) (some (s.begins s.cth.trail false))

/-- The bytes a matrix line's step reads from a tile at T of lines of 16 × cols bytes: n bytes of step i of line l under swizzle z (R229). -/
def tileBytes (m : Memory) (T cols z l n i : Nat) : Nat :=
  let w := min n 16
  sumUp (n / w) (fun u => rdLE m (T + 16 + l * 16 * cols + Nat.xor (i * n + w * u) (l * z % 8 * 16)) w * 2 ^ (8 * w * u))

/-! ## Lanes -/

/-- A lanewise operation as claims name it: its instruction, whether it reads D and T, its lane count in the vector form, the widths of
its sources and of its result, whether a scalar result is sign-extended, whether the vector form clears the lanes past its count, and
the bits and flags of a lane from D, S and T. -/
structure LaneOp where
  ins   : Instr
  rd    : Bool
  three : Bool
  n     : Nat
  ws    : Nat
  wd    : Nat
  sg    : Bool
  zero  : Bool
  f     : Nat → Nat → Nat → Nat × Fl

/-- The floating-point instructions of R182 to R188 on exact values: rounded once, or with the result their rule gives. -/
def floatOps (s : State) (x : P1) (d o t : Opnd) (rm : Option RMode) (tt : Ty) : List LaneOp :=
  let m := roundMode s rm
  let w := tyWidth x.ty
  let n := tyLanes x.ty
  let val := decodeF x.ty
  let rnd := rounded x.ty m false
  let ds (i : Instr) (f : Nat → Nat → Nat × Fl) : LaneOp := ⟨i, true, false, n, w, w, false, false, fun a b _ => f a b⟩
  let one (i : Instr) (f : Nat → Nat × Fl) : LaneOp := ⟨i, false, false, n, w, w, false, false, fun _ b _ => f b⟩
  let dst (i : Instr) (f : Nat → Nat → Nat → Nat × Fl) : LaneOp := ⟨i, true, true, n, w, w, false, false, f⟩
  let k := min n (tyLanes tt)
  [ds (.fadd x d o rm) (fun a b => rnd (fpAdd m (val a) (val b))),
   ds (.fsub x d o rm) (fun a b => rnd (fpAdd m (val a) (val b).negate)),
   ds (.fmul x d o rm) (fun a b => rnd (fpMul (val a) (val b))),
   ds (.fdiv x d o rm) (fun a b => rnd (fpDiv (val a) (val b))),
   one (.fsqrt x d o rm) (fun b => rnd (fpSqrt (val b))),
   dst (.fma x d o t rm) (fun a b c => rnd (fpFma m (val b) (val c) (val a))),
   dst (.fms x d o t rm) (fun a b c => rnd (fpFma m (val b) (val c) (val a).negate)),
   dst (.fnma x d o t rm) (fun a b c => rnd (fpFma m (val b).negate (val c) (val a))),
   dst (.fnms x d o t rm) (fun a b c => rnd (fpFma m (val b).negate (val c) (val a).negate)),
   ds (.fmin x d o) (opMinMax false true x.ty), ds (.fmax x d o) (opMinMax true true x.ty),
   ds (.fminm x d o) (opMinMax false false x.ty), ds (.fmaxm x d o) (opMinMax true false x.ty),
   one (.fabs x d o) (fun b => (opAbs x.ty b, 0)), one (.fneg x d o) (fun b => (opNeg x.ty b, 0)),
   ds (.fcpys x d o) (fun a b => (opCpys x.ty a b, 0)), one (.fclass x d o) (fun b => (opClass x.ty b, 0)),
   one (.frnd x d o rm) (opRnd x.ty m), ds (.frem x d o) (opRem x.ty),
   ds (.fscalb x d o rm) (fun a b => opScalb x.ty m a (toSigned (if x.sc then 64 else w) b)), one (.flogb x d o) (opLogb x.ty),
   ⟨.fcvt x d o tt rm, false, false, k, w, tyWidth tt, false, true, fun _ b _ => roundTo tt m s.cth.fctl.sat8 (val b)⟩,
   ⟨.fcvti x d o tt rm, false, false, k, w, tyWidth tt, tySigned tt, true, fun _ b _ => fpToInt (tySigned tt) (tyWidth tt) m (val b)⟩,
   ⟨.icvtf x d o tt rm, false, false, k, tyWidth tt, w, false, true,
     fun _ b _ => roundTo x.ty m s.cth.fctl.sat8 (intToFp (intVal tt b))⟩]

/-- The integer lane instructions of R190 and VMOV, by the values of their lanes. -/
def intOps (x : P1) (d : Fin 8) (o : Src) : List LaneOp :=
  let w := tyWidth x.ty
  let val := intVal x.ty
  let ds (i : Instr) (f : Nat → Nat → Nat × Fl) : LaneOp := ⟨i, true, false, tyLanes x.ty, w, w, tySigned x.ty, false, fun a b _ => f a b⟩
  let wrap (v : Int) : Nat × Fl := ((v % (2 ^ w : Nat)).toNat, 0)
  [ds (.vadd x d o) (fun a b => wrap (val a + val b)), ds (.vsub x d o) (fun a b => wrap (val a - val b)),
   ds (.vmul x d o) (fun a b => wrap (val a * val b)), ds (.vand x d o) (fun a b => (a &&& b, 0)),
   ds (.vor x d o) (fun a b => (a ||| b, 0)), ds (.vxor x d o) (fun a b => (a ^^^ b, 0)),
   ds (.vshl x d o) (fun a b => (a * 2 ^ (b % w) % 2 ^ w, 0)), ds (.vshr x d o) (fun a b => (a / 2 ^ (b % w), 0)),
   ds (.vsar x d o) (fun a b => wrap (toSigned w a / 2 ^ (b % w))),
   ds (.vmin x d o) (fun a b => (if val a ≤ val b then a else b, 0)), ds (.vmax x d o) (fun a b => (if val a ≤ val b then b else a, 0)),
   ds (.vsadd x d o) (fun a b => clampTy x.ty (val a + val b))]

/-- The sources D, S and T of a lanewise operation in the vector form. -/
def laneSources (s : State) (e : LaneOp) (d : Fin 8) (o : Src) (t : Opnd) (a b c : Vec) : Prop :=
  (e.rd = true → readLanes s e.ws (.v d) = .ok a) ∧ readLanesS s e.ws o = .ok b ∧ (e.three = true → readLanes s e.ws t = .ok c)

/-- The value and flags of lane i of a lanewise operation. -/
def LaneOp.at (e : LaneOp) (a b c : Vec) (i : Nat) : Nat × Fl :=
  e.f (if e.rd then lane e.ws a i else lane e.ws 0 i) (lane e.ws b i) (if e.three then lane e.ws c i else lane e.ws 0 i)

/-- The flags of a list of lanes together (R12). -/
def allFlags (l : List Nat) (f : Nat → Fl) : Fl := l.foldl (fun r i => r ||| f i) 0

/-- The lanes that raise an enabled flag, as XVAL reports them (R12). -/
def flagLanes (te : Fl) (l : List Nat) (f : Nat → Fl) (x : Dword) : Prop :=
  ∀ i < 64, x.getLsbD i = (l.contains i && decide (f i &&& te ≠ 0))

/-! ## Programs of the device -/

/-- A program that runs to its end in this step, after the accesses of a trail: its answer and the machine after it. -/
def State.runs (s : State) (t : List Made) (e : Eng α) : Except EngStop (α × State) :=
  (e (s.begins t false)).map (fun r => (r.1, { r.2 with cur := s.cur }))

/-- The accesses that a flow of the device has made, where it waits for no page and no answer with poisoned data. -/
def State.flowTrail (s : State) (who : Instr) : Option (List Made) :=
  match s.waits.find? (fun w => w.who == who) with
  | some w => if w.paused ∨ w.poison then none else some w.trail
  | none => some []

/-! ## Waiting engine instructions -/

/-- The instructions whose issuer waits for an engine's post, on registers d and r (R48); GWTAKE on a gateway core. -/
def waitingForms (gateway : Bool) (d r : Fin 24) (keep : Bool) (n : Fin 4) : List Instr :=
  [.rpnew d r, .rpcat d r, .rpsplit d r, .rpsplice d r keep, .rplen d r, .rpsum d r n, .rpfind d r, .rpscan d r, .rphold d, .rpdrop d,
   .rpdesc d r, .rprefr d, .spobs d r, .spobsSet d r, .spshape d r, .spshapeSet d r, .topk d r, .unmset d r, .unmrank d r, .unmdirty d r,
   .unmclr d r] ++ (if gateway then [.gwtake d r] else [])

/-- The thread's register r.val + i. -/
def State.gReg (s : State) (r : Fin 24) (i : Nat) : Dword := s.cth.g.toList.getD (r.val + i) 0

/-! ## Graphs -/

/-- Node i of the graph with a key. -/
def State.nodeAt (s : State) (gk i : Nat) : Option Node := (mfind gk s.graphs).bind (fun g => g.nodes[i]?)

end Sys2Proof.Machine
end

