-- ==== Sys2Proof/Certificates/Slice0/Obligations.lean ====
section
/-! DEFINITION. What is claimed of the model, for the provers: the rules of the spec that say what an instruction or the machine
does. Where a clause rests on a choice of the model, its docstring names the log entry. -/

open Sys2Proof Sys2Proof.Machine

/-! ## Page 0: integer arithmetic (chapter 08) -/

/-- R155, R156: the result of each two-address instruction, for every form of its operands: registers, queues, links and an
immediate. When d and S are taken (R46) with values a and b, and the result can be written (R153), the instruction completes with
its result in d. -/
def Obligations.TwoAddressResults : Prop :=
  ∀ (s t : State) (d : Opnd) (o : Src) (a b : Dword), TakesTwo s d o a b t →
    let gives (i : Instr) (P : Dword → Prop) : Prop :=
      ∃ x, P x ∧ ∀ u, writeO t d x = .ok u → exec i s = .next (u.advance none)
    let k := b.toNat % 64
    gives (.add d o) (fun x => x.toNat = (a.toNat + b.toNat) % 2 ^ 64) ∧
    gives (.sub d o) (fun x => x.toNat = (a.toNat + 2 ^ 64 - b.toNat) % 2 ^ 64) ∧
    gives (.mul d o) (fun x => x.toNat = a.toNat * b.toNat % 2 ^ 64) ∧
    gives (.mulh d o) (fun x => x.toInt = a.toInt * b.toInt / 2 ^ 64) ∧
    gives (.mulhn d o) (fun x => x.toNat = a.toNat * b.toNat / 2 ^ 64) ∧
    gives (.div d o) (fun x =>
      if b = 0 then x.toInt = -1
      else if a.toInt = -2 ^ 63 ∧ b.toInt = -1 then x.toInt = -2 ^ 63
      else x.toInt = a.toInt.tdiv b.toInt) ∧
    gives (.divn d o) (fun x => if b = 0 then x = BitVec.allOnes 64 else x.toNat = a.toNat / b.toNat) ∧
    gives (.rem d o) (fun x => if b = 0 then x = a else x.toInt = a.toInt.tmod b.toInt) ∧
    gives (.remn d o) (fun x => if b = 0 then x = a else x.toNat = a.toNat % b.toNat) ∧
    gives (.and d o) (fun x => ∀ i, x.getLsbD i = (a.getLsbD i && b.getLsbD i)) ∧
    gives (.or d o) (fun x => ∀ i, x.getLsbD i = (a.getLsbD i || b.getLsbD i)) ∧
    gives (.xor d o) (fun x => ∀ i, x.getLsbD i = (a.getLsbD i != b.getLsbD i)) ∧
    gives (.andn d o) (fun x => ∀ i < 64, x.getLsbD i = (a.getLsbD i && !b.getLsbD i)) ∧
    gives (.shl d o) (fun x => x.toNat = a.toNat * 2 ^ k % 2 ^ 64) ∧
    gives (.shr d o) (fun x => x.toNat = a.toNat / 2 ^ k) ∧
    gives (.sar d o) (fun x => x.toInt = a.toInt / 2 ^ k) ∧
    gives (.rol d o) (fun x => ∀ i < 64, x.getLsbD ((i + k) % 64) = a.getLsbD i) ∧
    gives (.min d o) (fun x => x.toInt = min a.toInt b.toInt) ∧
    gives (.max d o) (fun x => x.toInt = max a.toInt b.toInt) ∧
    gives (.minn d o) (fun x => x.toNat = min a.toNat b.toNat) ∧
    gives (.maxn d o) (fun x => x.toNat = max a.toNat b.toNat) ∧
    gives (.seq d o) (fun x => x.toNat = if a = b then 1 else 0) ∧
    gives (.slt d o) (fun x => x.toNat = if a.toInt < b.toInt then 1 else 0) ∧
    gives (.sltn d o) (fun x => x.toNat = if a.toNat < b.toNat then 1 else 0)

/-- R155, R157 to R159: the instructions that count, move, extend, take an immediate and select. `movi` writes the immediate whatever
it is; `csel` takes both its sources, whether or not it selects, and leaves d as it is where the value of t is zero. -/
def Obligations.CountMoveSelectResults : Prop :=
  (∀ (s t : State) (d o : Opnd) (x : Dword), readO s o = .ok (x, t) →
    let gives (i : Instr) (P : Dword → Prop) : Prop :=
      ∃ y, P y ∧ ∀ u, writeO t d y = .ok u → exec i s = .next (u.advance none)
    gives (.clz d o) (fun y =>
      if x = 0 then y = 64 else y.toNat < 64 ∧ x.getLsbD (63 - y.toNat) = true ∧ ∀ j, 63 - y.toNat < j → x.getLsbD j = false) ∧
    gives (.ctz d o) (fun y =>
      if x = 0 then y = 64 else y.toNat < 64 ∧ x.getLsbD y.toNat = true ∧ ∀ j < y.toNat, x.getLsbD j = false) ∧
    gives (.popc d o) (fun y => y.toNat = ((List.range 64).filter (fun i => x.getLsbD i)).length) ∧
    gives (.mov d o) (fun y => y = x) ∧
    (∀ w, gives (.ext d o w false) (fun y => y.toNat = x.toNat % 2 ^ widthBits w) ∧
      gives (.ext d o w true) (fun y =>
        y.toInt = if x.toNat % 2 ^ widthBits w < 2 ^ (widthBits w - 1) then ((x.toNat % 2 ^ widthBits w : Nat) : Int)
          else ((x.toNat % 2 ^ widthBits w : Nat) : Int) - 2 ^ widthBits w))) ∧
  (∀ (s u : State) (d : Opnd) (x : Dword), writeO s d x = .ok u → exec (.movi d x) s = .next (u.advance none)) ∧
  (∀ (s t : State) (d : Opnd) (a x : Dword), readO s d = .ok (a, t) →
    let gives (i : Instr) (P : Dword → Prop) : Prop :=
      ∃ y, P y ∧ ∀ u, writeO t d y = .ok u → exec i s = .next (u.advance none)
    gives (.addi d x) (fun y => y.toNat = (a.toNat + x.toNat) % 2 ^ 64) ∧
    gives (.shli d x) (fun y => y.toNat = a.toNat * 2 ^ (x.toNat % 64) % 2 ^ 64) ∧
    gives (.shri d x) (fun y => y.toNat = a.toNat / 2 ^ (x.toNat % 64)) ∧
    gives (.sari d x) (fun y => y.toInt = a.toInt / 2 ^ (x.toNat % 64))) ∧
  (∀ (s t u : State) (d : Fin 24) (o c : Opnd) (x y : Dword), readO s o = .ok (x, t) → readO t c = .ok (y, u) →
    exec (.csel d o c) s = .next ((if y = 0 then u else writeG u d x).advance none))

/-- R30, R45, R46, R153: what the operands of page 0 are. A g register that no outstanding relaxed access names reads its value; a
write of it changes it alone. A queue's consumer takes its head, a producer adds at the tail while fewer than 16 entries stand in
it; anyone else traps with cause 0x10. A link takes the head of the core's incoming queue, and a push sends the entry to the
neighbour's, when the node holds a claim there and fewer than 8 entries stand in it or are on their way. -/
def Obligations.Operands : Prop :=
  (∀ (s : State) (r : Fin 24), s.gPending s.cth.uid r = false → readO s (.g r) = .ok (s.cth.g[r.val], s)) ∧
  (∀ (s : State) (r : Fin 24) (x : Dword), ∃ u, writeO s (.g r) x = .ok u ∧ u.cth.g[r.val] = x ∧
    (∀ r' : Fin 24, r' ≠ r → u.cth.g[r'.val] = s.cth.g[r'.val]) ∧ { u.cth with g := s.cth.g } = s.cth) ∧
  (∀ (s : State) (i : Fin 4) (e : Dword) (es : List Dword),
    (queueRoles s i).2 = true → ((s.core s.cur.core).queue i).ent = e :: es →
    ∃ u, readO s (.q i) = .ok (e, u) ∧ ((u.core u.cur.core).queue i).ent = es ∧ { u with cores := s.cores } = s) ∧
  (∀ (s : State) (i : Fin 4), (queueRoles s i).2 = true → ((s.core s.cur.core).queue i).ent = [] →
    readO s (.q i) = .error (.wait s .queue)) ∧
  (∀ (s : State) (i : Fin 4), (queueRoles s i).2 = false →
    readO s (.q i) = .error (.trap 0x10 (BitVec.ofNat 64 (24 + i.val)))) ∧
  (∀ (s : State) (i : Fin 4) (x : Dword),
    (queueRoles s i).1 = true → ((s.core s.cur.core).queue i).ent.length < 16 →
    ∃ u, writeO s (.q i) x = .ok u ∧ ((u.core u.cur.core).queue i).ent = ((s.core s.cur.core).queue i).ent ++ [x] ∧
      { u with cores := s.cores } = s) ∧
  (∀ (s : State) (i : Fin 4) (x : Dword), (queueRoles s i).1 = true → 16 ≤ ((s.core s.cur.core).queue i).ent.length →
    writeO s (.q i) x = .error (.wait s .queue)) ∧
  (∀ (s : State) (i : Fin 4) (x : Dword), (queueRoles s i).1 = false →
    writeO s (.q i) x = .error (.trap 0x10 (BitVec.ofNat 64 (24 + i.val)))) ∧
  (∀ (s : State) (d : Dir) (e : Dword) (es : List Dword),
    linkBound s d = true → ((s.core s.cur.core).link d).ent = e :: es →
    ∃ u, readO s (.link d) = .ok (e, u) ∧ ((u.core u.cur.core).link d).ent = es) ∧
  (∀ (s : State) (d : Dir) (c : Nat) (x : Dword),
    linkBound s d = true → neighbour s.cur.core d = some c →
    (s.core c).claims.any (fun k => s.cth.node = some k.node && k.ready) = true →
    ((s.core c).link (oppDir d)).ent.length + ((s.core c).link (oppDir d)).fly.length < 8 →
    ∃ u, writeO s (.link d) x = .ok u ∧
      ((u.core c).link (oppDir d)).fly = ((s.core c).link (oppDir d)).fly ++ [x] ∧
      ((u.core c).link (oppDir d)).ent = ((s.core c).link (oppDir d)).ent) ∧
  (∀ (s : State) (d : Dir) (x : Dword), linkBound s d = false →
    writeO s (.link d) x = .error (.trap 0x10 (BitVec.ofNat 64 (28 + encDir d))) ∧
    readO s (.link d) = .error (.trap 0x10 (BitVec.ofNat 64 (28 + encDir d))))

/-- R46, R65: an instruction that must wait for its second operand, or for room for its result, takes back the pops it has made: every
queue, link and register is as it was, and the group is issued again. So does one that a second operand refuses: the trap is taken
with every queue and link unchanged. Stated for every two-address instruction. -/
def Obligations.WaitingTakesNothing : Prop :=
  ∀ f ∈ twoAddressForms, ∀ (s t t' : State) (d : Opnd) (o : Src) (a b : Dword),
    (∀ p, readO s d = .error (.wait t' p) → exec (f d o) s = .next (s.modCth (fun t => { t with wait := .poll p }))) ∧
    (∀ p, readO s d = .ok (a, t) → readS t o = .error (.wait t' p) →
      exec (f d o) s = .next (s.modCth (fun t => { t with wait := .poll p }))) ∧
    (∀ p, TakesTwo s d o a b t → (∀ x, writeO t d x = .error (.wait t' p)) →
      exec (f d o) s = .next (s.modCth (fun t => { t with wait := .poll p }))) ∧
    (∀ c v, readO s d = .ok (a, t) → readS t o = .error (.trap c v) → exec (f d o) s = .next (s.trapHere c v))

/-- The frame of the register forms of page 0 (R153, R155 to R159): with its sources readable such an instruction completes; nothing
but the issuing thread differs, no byte of memory, no other g register, no flag, no control, trap, vector or mask register of it. -/
def Obligations.RegisterFormFrame : Prop :=
  ∀ (s : State) (i : Instr) (d : Fin 24) (rs : List (Fin 24)), s.issuing → regForm i = some (d, rs) → s.readable rs →
    ∃ t, exec i s = .next t ∧ WentOn s t ∧ SameMemory s t ∧ OnlyThread s t keepG ∧
      ∀ r : Fin 24, r ≠ d → t.cth.g[r.val] = s.cth.g[r.val]

/-! ## Page 0: branches and jumps -/

/-- R160, R161: the targets and the links. A branch at A with displacement disp goes to A + 2 × disp when it is taken and to the next
group when it is not; LOOP decrements either way; CALL and JALR write the next group's address, JALR after its target was read. Outside
travel mode, or inside the local segment, every transfer is made (R72). R161, R162, R72: a jump to an odd address raises misaligned with
XVAL the target, and a transfer out of the local segment of a travel-mode thread raises segment escape with XVAL the target; a refused
transfer writes neither LOOP's counter nor a link. -/
def Obligations.Transfers : Prop :=
  (∀ (s : State) (r d : Fin 24) (disp : Dword), s.gPending s.cth.uid r = false →
    let A := s.cur.pc
    let x := s.cth.g[r.val]
    let there := A + 2 * disp
    let goes (i : Instr) (cond : Prop) (u : State) : Prop :=
      (cond → s.inLocal s.cur.core s.cth there.toNat 2 = true → exec i s = .next (u.advance (some there))) ∧
        (¬ cond → exec i s = .next (u.advance none))
    goes (.br disp) True s ∧ goes (.call disp) True (writeG s 23 s.nextPc) ∧
    goes (.bz r disp) (x = 0) s ∧ goes (.bnz r disp) (x ≠ 0) s ∧
    goes (.bltz r disp) (x.toInt < 0) s ∧ goes (.bgez r disp) (0 ≤ x.toInt) s ∧
    goes (.loop r disp) (x ≠ 1) (writeG s r (x - 1)) ∧
    (x.getLsbD 0 = false → s.inLocal s.cur.core s.cth x.toNat 2 = true →
      exec (.jr r) s = .next (s.advance (some x)) ∧ exec (.jalr d r) s = .next ((writeG s d s.nextPc).advance (some x)))) ∧
  (∀ (s : State) (r d : Fin 24) (disp : Dword), s.gPending s.cth.uid r = false →
    let x := s.cth.g[r.val]
    let there := s.cur.pc + 2 * disp
    (x.getLsbD 0 = true → exec (.jr r) s = .next (s.trapHere 0x05 x) ∧ exec (.jalr d r) s = .next (s.trapHere 0x05 x)) ∧
    (x.getLsbD 0 = false → s.inLocal s.cur.core s.cth x.toNat 2 = false →
      exec (.jr r) s = .next (s.trapHere 0x0A x) ∧ exec (.jalr d r) s = .next (s.trapHere 0x0A x)) ∧
    (s.inLocal s.cur.core s.cth there.toNat 2 = false →
      let escapes (i : Instr) : Prop := exec i s = .next (s.trapHere 0x0A there)
      escapes (.br disp) ∧ escapes (.call disp) ∧ (x ≠ 1 → escapes (.loop r disp)) ∧ (x = 0 → escapes (.bz r disp)) ∧
      (x ≠ 0 → escapes (.bnz r disp)) ∧ (x.toInt < 0 → escapes (.bltz r disp)) ∧ (0 ≤ x.toInt → escapes (.bgez r disp))))

/-! ## Waiting and reading -/

/-- R164: QWAIT completes when its queue or link holds n entries, or, for a producer only, when n entries are free; it waits else, and
changes nothing; a thread without the binding traps with cause 0x10 and the operand's code. R165: what GETS writes for each selector, to
any operand of page 0. R370: on a gateway core, whose threads stand in no node, selector 4 reads all ones; one that is as GWSTART left it
reads 0 as its attempt and its levels. A thread of the service stands in no node either: its node index is a free value (the model's choice:
entry 7). -/
def Obligations.QwaitAndGets : Prop :=
  (∀ (s : State) (i : Fin 4) (x : Dir) (n : BitVec 5),
    let k := ((s.core s.cur.core).queue i).ent.length
    let waits := Host.Outcome.next (s.modCth (fun t => { t with wait := .poll .qwait }))
    ((queueRoles s i).2 = true → exec (.qwait (.q i) n) s = if n.toNat ≤ k then .next (s.advance none) else waits) ∧
    (queueRoles s i = (true, false) → exec (.qwait (.q i) n) s = if n.toNat ≤ 16 - k then .next (s.advance none) else waits) ∧
    (queueRoles s i = (false, false) → exec (.qwait (.q i) n) s = .next (s.trapHere 0x10 (BitVec.ofNat 64 (24 + i.val)))) ∧
    (linkBound s x = true → exec (.qwait (.link x) n) s =
      if n.toNat ≤ ((s.core s.cur.core).link x).ent.length then .next (s.advance none) else waits) ∧
    (linkBound s x = false → exec (.qwait (.link x) n) s = .next (s.trapHere 0x10 (BitVec.ofNat 64 (28 + encDir x))))) ∧
  (∀ (s : State) (d : Opnd),
    let c := s.cur.core
    let gives (sel : Nat) (x : Dword) : Prop :=
      ∀ u, writeO s d x = .ok u → exec (.gets d (BitVec.ofNat 5 sel)) s = .next (u.advance none)
    gives 0 (BitVec.ofNat 64 s.cth.tid) ∧ gives 1 (BitVec.ofNat 64 (c % 4096)) ∧ gives 2 (s.logicalOf c) ∧
    gives 3 (BitVec.ofNat 64 s.cur.slot) ∧ gives 5 (BitVec.ofNat 64 s.cth.attempt) ∧
    (∀ nid, s.cth.node = some nid → gives 4 (BitVec.ofNat 64 (nid % 4096))) ∧
    (s.cth.node = none → isGateway c = true → gives 4 (BitVec.allOnes 64) ∧
      (s.cth.attempt = 0 → s.cth.lvIdx = [] → s.cth.lvExt = [] → gives 5 0 ∧ ∀ l < 8, gives (8 + l) 0 ∧ gives (16 + l) 0)) ∧
    (s.cth.node = none → isGateway c = false → ∃ x t, s.freeW = (x, t) ∧
      ∀ u, writeO t d x = .ok u → exec (.gets d 4) s = .next (u.advance none)) ∧
    gives 6 (BitVec.ofNat 64 s.counter) ∧ gives 25 (BitVec.ofNat 64 (s.core c).tag.val) ∧
    (∀ l < 8, gives (8 + l) (BitVec.ofNat 64 (s.cth.lvIdx.getD l 0)) ∧ gives (16 + l) (BitVec.ofNat 64 (s.cth.lvExt.getD l 0))) ∧
    (∀ j e, s.localSeg c s.cth = some (j, e) → gives 24 (BitVec.ofNat 64 j)) ∧
    (s.localSeg c s.cth = none → gives 24 (BitVec.allOnes 64)) ∧
    (c % 4096 < 2048 → gives 26 (BitVec.ofNat 64 (c % 4096 / 512)) ∧ gives 27 (BitVec.ofNat 64 (c % 4096 / 64 % 8))) ∧
    (∀ n < 4, c % 4096 = 2048 + n → s.logicalOf c = BitVec.ofNat 64 (2048 + n) ∧ gives 26 4 ∧ gives 27 (BitVec.ofNat 64 n)) ∧
    (∀ n < 24, c % 4096 = 2052 + n → s.logicalOf c = BitVec.ofNat 64 (2052 + n) ∧ gives 26 4 ∧ gives 27 (BitVec.ofNat 64 n)))

/-! ## Memory: checks, places and accesses (chapters 03, 05, 11) -/

/-- R38: the checks of an access through a segment in their order, each with XVAL the offset: the right, the limit, the reach, the
alignment; a legal access has the place of base + offset in the segment's space, added within the space's address field. R213: LEA forms
the resolved address of base + offset in the segment's space, with the segment's rights; it checks neither rights, reach nor alignment; an
offset at or past the limit raises segment bounds. -/
def Obligations.SegmentChecksAndLea : Prop :=
  (∀ (s : State) (sg : Fin 8) (o : Dword) (n right : Nat),
    let g := s.cth.sg[sg.val]
    let field := fieldAdd g.space.toNat g.base.toNat o.toNat
    let place := s.place s.cur.core s.ctag g.space.toNat field
    let reach := 1 ≤ g.space.toNat ∧ g.space.toNat ≤ 6 ∧ inReach s.cur.core place = true
    let fine := g.rights.toNat &&& right ≠ 0
    let fits := o.toNat + n ≤ g.limit.toNat
    let check := s.segCheck sg o n right (denyWindow n)
    (¬ fine → check = .error (.trap 0x04 o)) ∧
    (fine → ¬ fits → check = .error (.trap 0x03 o)) ∧
    (fine → fits → ¬ reach → check = .error (.trap 0x04 o)) ∧
    (fine → fits → reach → o.toNat % n ≠ 0 → check = .error (.trap 0x05 o)) ∧
    (fine → fits → reach → o.toNat % n = 0 → g.space.toNat ≠ 6 → ∀ l, place = some l →
      ∃ ra, check = .ok (l, ra) ∧ raSpace ra = g.space.toNat ∧ raRights ra = g.rights.toNat) ∧
    (fine → fits → reach → o.toNat % n = 0 → g.space.toNat = 6 → n ≠ 8 → check = .error (.trap 0x05 o)) ∧
    (g.space.toNat = 1 → place = some (.core s.cur.core ((g.base.toNat % 0x80000 + o.toNat) % 0x80000)))) ∧
  (∀ (s : State) (d : Fin 24) (m : MemOp), s.gPending s.cth.uid m.base = false →
    let g := s.cth.sg[m.sg.val]
    let o := offsetOf s m
    (g.limit.toNat ≤ o.toNat → exec (.lea d m) s = .next (s.trapHere 0x03 o)) ∧
    (o.toNat < g.limit.toNat → ∃ x : Dword, exec (.lea d m) s = .next ((writeG s d x).advance none) ∧
      raSpace x = g.space.toNat ∧ raRights x = g.rights.toNat ∧
      raField x = fieldAdd g.space.toNat g.base.toNat o.toNat))

/-- R7, R90, R93, R104, R210: an ordinary access of n bytes of core store or cluster store. It gives the old bytes, little-endian; a
read changes nothing; a store leaves the bytes of its mask stored and every other byte as it was; an AMO and a CAS store the new value of
R210 and R211. No thread, no queue and no other part of the machine changes. R341 to R345: an ordinary read or store of global memory goes
through the port's translation buffer or the page table to the frame the leaf names, gives its old bytes, and stores nowhere else. -/
def Obligations.OrdinaryAccess : Prop :=
  (∀ (s : State) (l : Loc) (n : Nat) (op : POp) (o ra : Dword), s.unhindered l n op →
    (∃ c a, l = .core c a) ∨ (∃ k a, l = .clu k a) →
    let bytes (t : State) : Nat := match l with
      | .core c a => rdLE (t.core c).mem a n
      | .clu k a => rdLE (t.clu k).mem a n
      | _ => 0
    ∃ t, s.ordinary l n op o ra = .ok (t, bytes s) ∧ SameMemoryBut s t l n ∧
      { t with cores := s.cores, clusters := s.clusters } = s ∧ (∀ c k, t.thread? c k = s.thread? c k) ∧
      (op = .rd → SameMemory s t) ∧
      (∀ v, op = .wr v (fullMask n) → bytes t = v % 256 ^ n) ∧
      (∀ v mask, op = .wr v mask → ∀ b < n,
        bytes t / 256 ^ b % 256 = if bitAt mask b then v / 256 ^ b % 256 else bytes s / 256 ^ b % 256) ∧
      (∀ v, op = .amo .add v → bytes t = (bytes s + v) % 256 ^ n) ∧
      (∀ v, op = .amo .swap v → bytes t = v % 256 ^ n) ∧
      (∀ v, op = .amo .and v → bytes t = (bytes s &&& v) % 256 ^ n) ∧
      (∀ v, op = .amo .or v → bytes t = (bytes s ||| v) % 256 ^ n) ∧
      (∀ v, op = .amo .min v → v < 256 ^ n → toSigned (8 * n) (bytes t) = min (toSigned (8 * n) (bytes s)) (toSigned (8 * n) v)) ∧
      (∀ v, op = .amo .max v → v < 256 ^ n → toSigned (8 * n) (bytes t) = max (toSigned (8 * n) (bytes s)) (toSigned (8 * n) v)) ∧
      (∀ v, op = .amo .minn v → v < 256 ^ n → bytes t = min (bytes s) v) ∧
      (∀ v, op = .amo .maxn v → v < 256 ^ n → bytes t = max (bytes s) v) ∧
      (∀ e v, op = .cas e v → e < 256 ^ n → bytes t = if bytes s = e then v % 256 ^ n else bytes s)) ∧
  (∀ (s : State) (va n : Nat) (op : POp) (o ra : Dword) (pkg pa : Nat), s.reaches va n op pkg pa →
    let bytes (t : State) : Nat := rdLE t.kns (knsKey pkg pa) n
    ∃ t, s.ordinary (.glob va) n op o ra = .ok (t, bytes s) ∧
      SameMemoryBut s t (.kns pkg pa) n ∧ t.cores = s.cores ∧
      (op = .rd → t.kns = s.kns) ∧
      (∀ v, op = .wr v (fullMask n) → bytes t = v % 256 ^ n) ∧
      (∀ v mask, op = .wr v mask → ∀ b < n,
        bytes t / 256 ^ b % 256 = if bitAt mask b then v / 256 ^ b % 256 else bytes s / 256 ^ b % 256))

/-- R109: copy counts and PHARR are updates of a phase word, by db bytes and dn arrivals, which the bank that holds the word applies as one
operation: counts saturate and set over, a count past its target sets over, and the update that meets both targets advances the generation
and clears the counts, the targets unchanged. PHINIT sets the targets and zeroes the rest. A plain store, AMO or CAS changes the bytes it
writes alone, whether it is ordinary or a piece performed at the bank. -/
def Obligations.PhaseUpdate : Prop :=
  (∀ (w db dn : Nat), w < 2 ^ 128 →
    let b := min (pwBytes w + db) 0xFFFFFFFF
    let n := min (pwArr w + dn) 0xFFFF
    let ov := pwOver w || decide (0xFFFFFFFF < pwBytes w + db) || decide (0xFFFF < pwArr w + dn) || decide (pwTbytes w < b) ||
      decide (pwTarr w < n)
    let completes := pwTbytes w ≤ b ∧ pwTarr w ≤ n
    let u := phaseUpdate w db dn
    u < 2 ^ 128 ∧ pwTbytes u = pwTbytes w ∧ pwTarr u = pwTarr w ∧ pwOver u = ov ∧
      (completes → pwGen u = (pwGen w + 1) % 2 ^ 31 ∧ pwBytes u = 0 ∧ pwArr u = 0) ∧
      (¬ completes → pwGen u = pwGen w ∧ pwBytes u = b ∧ pwArr u = n)) ∧
  (∀ (s : State) (l : Loc) (tag db dn : Nat), (∃ c a, l = .core c a) ∨ (∃ k a, l = .clu k a) →
    let word (t : State) : Nat := match l with
      | .core c a => rdLE (t.core c).mem a 16
      | .clu k a => rdLE (t.clu k).mem a 16
      | _ => 0
    ∃ t, s.bank tag l 16 (.phase db dn) = .ok t (word s) ∧ word t = phaseUpdate (word s) db dn ∧ SameMemoryBut s t l 16) ∧
  (∀ (s : State) (r : Req) (pw : Dword) (db dn : Nat), pw ≠ 0 →
    Eng.phase r pw db dn s = (Eng.acc r pw 16 (.phase db dn) s).map (fun y => ((), y.2))) ∧
  (∀ (s t : State) (d r : Fin 24) (sc : Scope) (l : Loc) (w : Nat), s.gPending s.cth.uid r = false → s.gPending s.cth.uid d = false →
    let a := s.cth.g[r.val]
    let x := (s.cth.g[d.val]).toNat
    let acc (op : POp) : Prop := s.ordinary l 16 op (BitVec.ofNat 64 (raOffset a)) a = .ok (t, w)
    (s.phasePlace a 4 = .ok l → acc (.wr (x % 2 ^ 32 * 2 ^ 64 + x / 2 ^ 32 % 2 ^ 16 * 2 ^ 112) (fullMask 16)) →
      exec (.phinit d r) s = .next (t.advance none)) ∧
    (s.phasePlace a 1 = .ok l → s.drained s.cth.uid = true → acc (.phase x 1) → exec (.pharr d r sc) s = .next (t.advance none))) ∧
  (∀ (s t : State) (l : Loc) (n : Nat) (o ra : Dword) (op : POp) (x : Nat), (∀ p q, op ≠ .phase p q) →
    (∃ c a, l = .core c a) ∨ (∃ k a, l = .clu k a) →
    s.ordinary l n op o ra = .ok (t, x) ∨ (∃ p, s.bank p l n op = .ok t x) → SameMemoryBut s t l n)

/-- R46, R206, R207, R94: LD and LDSX of every width and destination whose push can be made. An ordinary load, or one whose place orders
it as ordinary, writes the zero- or sign-extended value; a relaxed one goes on at once, its access outstanding with its destination
pending. One whose push cannot be made waits, before any check of its address; one that a check of R38 refuses traps, as LDACQ does. -/
def Obligations.LoadResults : Prop :=
  ∀ (s t : State) (d : Opnd) (m : MemOp) (w : Width) (l : Loc) (ra : Dword) (x : Nat), s.gPending s.cth.uid m.base = false →
    let n := widthBytes w
    let o := offsetOf s m
    (s.roomFor d = .error (.wait s .queue) →
      exec (.ld d m w) s = .next (s.modCth (fun t => { t with wait := .poll .queue })) ∧
      exec (.ldsx d m w) s = .next (s.modCth (fun t => { t with wait := .poll .queue }))) ∧
    (∀ c v, s.roomFor d = .ok () → s.segCheck m.sg o n 8 (denyWindow n) = .error (.trap c v) →
      ∀ i ∈ [Instr.ld d m w, .ldsx d m w, .ldacq d m w], exec i s = .next (s.trapHere c v)) ∧
    (s.segCheck m.sg o n 8 (denyWindow n) = .ok (l, ra) →
    (s.isRelaxed m.cls l = false → s.roomFor d = .ok () → s.ordinary l n .rd o ra = .ok (t, x) →
      (∃ y : Dword, y.toNat = x % 256 ^ n ∧ ∀ u, writeO t d y = .ok u → exec (.ld d m w) s = .next (u.advance none)) ∧
      ∃ y : Dword, y.toInt = toSigned (8 * n) x ∧ ∀ u, writeO t d y = .ok u → exec (.ldsx d m w) s = .next (u.advance none)) ∧
    (∀ r, d = .g r → s.isRelaxed m.cls l = true → ((s.accesses s.cth.uid).filter Access.outstanding).length < 16 →
      ∃ u u' : State, exec (.ld d m w) s = .next (u.advance none) ∧ exec (.ldsx d m w) s = .next (u'.advance none) ∧
        { u with net := s.net } = s ∧ { u' with net := s.net } = s ∧ u.gPending s.cth.uid r = true ∧
        u'.gPending s.cth.uid r = true ∧ u.net.length = s.net.length + 1 ∧ u'.net.length = s.net.length + 1))

/-- R102, R206, R207, R208, R94: ST and STREL of every width and source. An ordinary store completes with its bytes stored and the source's
entry taken; a relaxed one goes on at once, its access outstanding with no register effect. STREL completes as an ordinary store of its
operands once every relaxed access of the thread is performed. One that a check of R38 refuses traps and takes no entry. -/
def Obligations.StoreResults : Prop :=
  ∀ (s s1 t u : State) (src : Opnd) (m : MemOp) (w : Width) (l : Loc) (ra x : Dword) (y : Nat), s.gPending s.cth.uid m.base = false →
    let n := widthBytes w
    let o := offsetOf s m
    let op := POp.wr (x.toNat % 256 ^ n) (fullMask n)
    readO s src = .ok (x, s1) →
    (∀ c v, s.segCheck m.sg o n 4 (denyWindow n) = .error (.trap c v) → exec (.st m src w) s = .next (s.trapHere c v) ∧
      (s.drained s.cth.uid = true → exec (.strel m src w) s = .next (s.trapHere c v))) ∧
    (s.segCheck m.sg o n 4 (denyWindow n) = .ok (l, ra) →
    (s.isRelaxed m.cls l = false → s.ordinary l n op o ra = .ok (t, y) → readO t src = .ok (x, u) →
      exec (.st m src w) s = .next (u.advance none)) ∧
    (s.drained s.cth.uid = true → s.ordinary l n op o ra = .ok (t, y) → readO t src = .ok (x, u) →
      exec (.strel m src w) s = .next (u.advance none)) ∧
    (∀ r, src = .g r → s.isRelaxed m.cls l = true → ((s.accesses s.cth.uid).filter Access.outstanding).length < 16 →
      ∃ v : State, exec (.st m src w) s = .next (v.advance none) ∧ { v with net := s.net } = s ∧ v.net.length = s.net.length + 1 ∧
        ∃ a, v.net[s.net.length]? = some a ∧ a.dest = .none ∧ a.iss = s.issuer))

/-- R101, R102, R103, R208, R212: the fences and the two ordered accesses. A release waits until every relaxed access of the thread is
performed and then changes nothing; an acquire waits until its loads have returned and drops the read buffers of its scope; a full fence
waits for both, its accesses performed but not yet returned among them; IFENCE
also drops the slot's fetch buffer. LDACQ is an ordinary load and then an acquire, for which it waits when its value is read, the value held
until the acquire ends (the model's reading: entry 31); STREL is a release and then an ordinary store. -/
def Obligations.Fences : Prop :=
  (∀ (s : State) (sc : Scope), s.drained s.cth.uid = true →
    exec (.ifence sc) s = .next ((s.modCth (fun t => { t with fbuf := none })).advance none) ∧
    exec (.fenceRel sc) s = .next (s.advance none) ∧
    (s.returned s.cth.uid = true → exec (.fenceAcq sc) s = .next ((s.invalidate sc).advance none) ∧
      exec (.fenceFull sc) s = .next ((s.invalidate sc).advance none))) ∧
  (∀ (s : State) (sc : Scope), s.drained s.cth.uid = false →
    let waits := Host.Outcome.next (s.modCth (fun t => { t with wait := .poll .drain }))
    exec (.ifence sc) s = waits ∧ exec (.fenceRel sc) s = waits ∧ exec (.fenceFull sc) s = waits ∧
      ∀ m o w, exec (.strel m o w) s = waits) ∧
  (∀ (s : State) (sc : Scope), s.returned s.cth.uid = false →
    exec (.fenceAcq sc) s = .next (s.modCth (fun t => { t with wait := .poll .drain })) ∧
    exec (.fenceFull sc) s = .next (s.modCth (fun t => { t with wait := .poll .drain }))) ∧
  (∀ (s : State) (sc : Scope) (k : Nat),
    let here := cluOf s.cur.core
    let within := match sc with
      | .core => False
      | .clu => k = here
      | .die => k / 64 = here / 64 ∧ k % 64 / 8 = here % 64 / 8
      | .pkg => k / 64 = here / 64
      | .dom | .sys => True
    (within → ((s.invalidate sc).clu k).rbuf = []) ∧
    (¬ within → ∀ x, (k, x) ∈ s.clusters → x ≠ {} → (k, x) ∈ (s.invalidate sc).clusters) ∧
    { s.invalidate sc with clusters := s.clusters } = s) ∧
  (∀ (s t : State) (d : Opnd) (m : MemOp) (w : Width), s.returned s.cth.uid = true →
    loadEff s d { m with cls := .ord } w false = .ok (t, none) →
    exec (.ld d { m with cls := .ord } w) s = .next (t.advance none) ∧
      exec (.ldacq d m w) s = .next ((t.invalidate m.scope).advance none)) ∧
  (∀ (s t : State) (d : Opnd) (m : MemOp) (w : Width) (l : Loc) (ra : Dword) (x : Nat), s.returned s.cth.uid = false →
    s.gPending s.cth.uid m.base = false → s.roomFor d = .ok () →
    s.segCheck m.sg (offsetOf s m) (widthBytes w) 8 (denyWindow (widthBytes w)) = .ok (l, ra) →
    s.ordinary l (widthBytes w) .rd (offsetOf s m) ra = .ok (t, x) →
    ∃ y : Dword, y.toNat = x % 256 ^ widthBytes w ∧ exec (.ldacq d m w) s = .next (t.modCth (fun q =>
      { q with wait := .acquire { res := some (d, y), scope := m.scope, next := t.nextPc }, poisoned := none }))) ∧
  (∀ (s : State) (m : MemOp) (o : Opnd) (w : Width), s.drained s.cth.uid = true →
    exec (.strel m o w) s = exec (.st { m with cls := .ord } o w) s)

/-- R210, R211, R94: AMO and CAS of both widths. An ordinary one writes the old value, zero-extended, to g[d]; a relaxed one goes on at
once with d pending. One that a check of R38 refuses traps; a register window that passes those checks is refused with segment rights. -/
def Obligations.AtomicResults : Prop :=
  ∀ (s t : State) (d v : Fin 24) (m : MemOp) (w : Width) (aop : AmoOp) (l : Loc) (ra : Dword) (x : Nat),
    s.gPending s.cth.uid m.base = false → s.gPending s.cth.uid v = false → s.gPending s.cth.uid d = false →
    let n := widthBytes w
    let o := offsetOf s m
    let deny (sp : Nat) : Option Nat := if sp = 6 then some 0x04 else none
    let amo := POp.amo aop ((s.cth.g[v.val]).toNat % 256 ^ n)
    let cas := POp.cas ((s.cth.g[d.val]).toNat % 256 ^ n) ((s.cth.g[v.val]).toNat % 256 ^ n)
    (∀ c e, s.segCheck m.sg o n 1 deny = .error (.trap c e) →
      exec (.amo d v m w aop) s = .next (s.trapHere c e) ∧ exec (.cas d v m w) s = .next (s.trapHere c e)) ∧
    (∀ p, s.segCheck m.sg o n 1 (fun _ => none) = .ok p → (s.cth.sg[m.sg.val]).space.toNat = 6 →
      exec (.amo d v m w aop) s = .next (s.trapHere 0x04 o) ∧ exec (.cas d v m w) s = .next (s.trapHere 0x04 o)) ∧
    (s.segCheck m.sg o n 1 deny = .ok (l, ra) →
    (s.isRelaxed m.cls l = false →
      (s.ordinary l n amo o ra = .ok (t, x) → ∃ y : Dword, y.toNat = x % 256 ^ n ∧
        exec (.amo d v m w aop) s = .next ((writeG t d y).advance none)) ∧
      (s.ordinary l n cas o ra = .ok (t, x) → ∃ y : Dword, y.toNat = x % 256 ^ n ∧
        exec (.cas d v m w) s = .next ((writeG t d y).advance none))) ∧
    (s.isRelaxed m.cls l = true → ((s.accesses s.cth.uid).filter Access.outstanding).length < 16 →
      ∃ u u' : State, exec (.amo d v m w aop) s = .next (u.advance none) ∧ exec (.cas d v m w) s = .next (u'.advance none) ∧
        { u with net := s.net } = s ∧ { u' with net := s.net } = s ∧ u.gPending s.cth.uid d = true ∧
        u'.gPending s.cth.uid d = true))

/-- R112, R113, R209, R355: LDFE waits for the word's full/empty bit to be 1, returns the word and clears the bit, then acquires; STFE
releases, waits for the bit to be 0, stores the word and sets the bit. A waiting one changes nothing; an LDFE whose acquire waits holds its
word until it ends (the model's reading: entry 31). The word's way is checked before
its bit is looked at: an access the router refuses traps, whatever the bit. A thread that does not wait takes no change of the bit that
another one waits for, and a waiting thread is served when the bit has changed. -/
def Obligations.FullEmptyWords : Prop :=
  (∀ (s t u : State) (d : Opnd) (m : MemOp) (l : Loc) (ra : Dword) (x : Nat), s.gPending s.cth.uid m.base = false →
    s.segCheck m.sg (offsetOf s m) 8 8 denyFe = .ok (l, ra) → s.roomFor d = .ok () →
    (s.feCheck l .rd (offsetOf s m) ra = .ok () → s.feBit l = false ∨ s.feTurn l true = true →
      exec (.ldfe d m) s = .next (s.modCth (fun t => { t with wait := .poll (.fullEmpty l true) }))) ∧
    (∀ cause, s.ordinaryMay l 8 = .ok () → s.route s.req l 8 .rd = .fail u cause → cause ≠ 9 →
      exec (.ldfe d m) s = .next (u.trapHere cause (offsetOf s m))) ∧
    (s.feBit l = true → s.feTurn l true = false → s.ordinary l 8 .rd (offsetOf s m) ra = .ok (t, x) →
      (s.returned s.cth.uid = true → writeO (t.setFe l false) d (BitVec.ofNat 64 x) = .ok u →
        exec (.ldfe d m) s = .next ((u.invalidate m.scope).advance none)) ∧
      (s.returned s.cth.uid = false → exec (.ldfe d m) s = .next ((t.setFe l false).modCth (fun q => { q with
        wait := .acquire { res := some (d, BitVec.ofNat 64 x), scope := m.scope, next := t.nextPc }, poisoned := none }))))) ∧
  (∀ (s t u : State) (r : Fin 24) (m : MemOp) (l : Loc) (ra : Dword) (x : Nat),
    s.gPending s.cth.uid m.base = false → s.gPending s.cth.uid r = false → s.drained s.cth.uid = true →
    s.segCheck m.sg (offsetOf s m) 8 4 denyFe = .ok (l, ra) →
    (s.feCheck l (.wr (s.cth.g[r.val]).toNat (fullMask 8)) (offsetOf s m) ra = .ok () → s.feBit l = true ∨ s.feTurn l false = true →
      exec (.stfe m (.g r)) s = .next (s.modCth (fun t => { t with wait := .poll (.fullEmpty l false) }))) ∧
    (∀ cause, s.ordinaryMay l 8 = .ok () → s.route s.req l 8 (.wr (s.cth.g[r.val]).toNat (fullMask 8)) = .fail u cause → cause ≠ 9 →
      exec (.stfe m (.g r)) s = .next (u.trapHere cause (offsetOf s m))) ∧
    (s.feBit l = false → s.feTurn l false = false → s.ordinary l 8 (.wr (s.cth.g[r.val]).toNat (fullMask 8)) (offsetOf s m) ra = .ok (t, x) →
      readO (t.setFe l true) (.g r) = .ok (s.cth.g[r.val], t.setFe l true) →
      exec (.stfe m (.g r)) s = .next ((t.setFe l true).advance none))) ∧
  (∀ (s : State) (c a : Nat) (b : Bool), (s.setFe (.core c a) b).feBit (.core c a) = b) ∧
  (∀ (s s1 : State) (c n : Nat) (d : Opnd) (m : MemOp) (l : Loc) (b : Bool), (s.thread c n).ctl = .run →
    (s.thread c n).wait = .poll (.fullEmpty l b) → s.fetch c n = .run s1 (.ldfe d m) →
      ∃ u : State, exec (.fullEmptyServe c n) s = .next u ∧ exec (.ldfe d m) s1 = .next u) ∧
  (∀ (s s1 : State) (c n : Nat) (o : Opnd) (m : MemOp) (l : Loc) (b : Bool), (s.thread c n).ctl = .run →
    (s.thread c n).wait = .poll (.fullEmpty l b) → s.fetch c n = .run s1 (.stfe m o) →
      ∃ u : State, exec (.fullEmptyServe c n) s = .next u ∧ exec (.stfe m o) s1 = .next u)

/-- R91, R196: VLD and VST of a block of 64 bytes. VLD changes the active lanes of d alone; VST stores the bytes of the active lanes alone;
with no active lane neither makes an access. An ordinary access is made whole, or its pieces are performed one by one while its thread
waits (entry 68): four of 16 bytes in core store, two of 32 bytes in cluster store, each at its own place with its own part of the value
and of the mask. -/
def Obligations.VectorMemory : Prop :=
  ∀ (s t : State) (x : P1) (d : Fin 8) (m : MemOp) (l : Loc) (ra : Dword) (y : Nat), s.gPending s.cth.uid m.base = false →
    let n := tyLanes x.ty
    let w := tyWidth x.ty
    let o := offsetOf s m
    let act := lanesOf s x n
    let pieces := match l with | .core _ _ => [(0, 16), (16, 16), (32, 16), (48, 16)] | _ => [(0, 32), (32, 32)]
    x.sc = false →
    (s.segCheck m.sg o 64 8 (denyWindow 64) = .ok (l, ra) →
      (act = [] → exec (.vld x d m) s = .next (s.advance none)) ∧
      (act ≠ [] → s.isRelaxed m.cls l = false → s.cur.split = false → s.ordinary l 64 .rd o ra = .ok (t, y) →
        ∃ v : Vec, exec (.vld x d m) s = .next ((writeV t d v).advance none) ∧
          ∀ i < n, lane w v i = if i ∈ act then lane w (BitVec.ofNat 512 y) i else lane w t.cth.v[d.val] i) ∧
      (act ≠ [] → s.isRelaxed m.cls l = false → s.cur.split = true → s.unhindered l 64 .rd → (∃ c b, l = .core c b) ∨ (∃ k b, l = .clu k b) →
        ∃ (u : State) (a : Access), exec (.vld x d m) s = .next u ∧ u.net = s.net ++ [a] ∧ a.ord = some s.cur.glen ∧
          a.pieces.map (fun p => (p.pos, p.n)) = pieces ∧
          (∀ p ∈ a.pieces, p.stage = .arrived ∧ p.loc = l.plus p.pos ∧ p.op = .rd) ∧ u.cth.wait = .access ∧ SameMemory s u) ∧
      (act ≠ [] → s.isRelaxed m.cls l = true → ((s.accesses s.cth.uid).filter Access.outstanding).length < 16 →
        ∃ u : State, exec (.vld x d m) s = .next (u.advance none) ∧ { u with net := s.net } = s ∧
          u.vPending s.cth.uid d = true)) ∧
    (s.segCheck m.sg o 64 4 (denyWindow 64) = .ok (l, ra) → s.vPending s.cth.uid d = false →
      (act = [] → exec (.vst x m d) s = .next (s.advance none)) ∧
      (act ≠ [] → ∃ mask, (∀ b < 64, bitAt mask b = decide (b / (w / 8) ∈ act)) ∧
        (s.isRelaxed m.cls l = false → s.cur.split = false → s.ordinary l 64 (.wr (s.cth.v[d.val]).toNat mask) o ra = .ok (t, y) →
          exec (.vst x m d) s = .next (t.advance none)) ∧
        (s.isRelaxed m.cls l = false → s.cur.split = true → s.unhindered l 64 (.wr (s.cth.v[d.val]).toNat mask) →
          (∃ c b, l = .core c b) ∨ (∃ k b, l = .clu k b) →
          ∃ (u : State) (a : Access), exec (.vst x m d) s = .next u ∧ u.net = s.net ++ [a] ∧ a.ord = some s.cur.glen ∧
            a.pieces.map (fun p => (p.pos, p.n)) = pieces ∧
            (∀ p ∈ a.pieces, p.stage = .arrived ∧ p.loc = l.plus p.pos ∧
              p.op = .wr ((s.cth.v[d.val]).toNat / 2 ^ (8 * p.pos) % 2 ^ (8 * p.n)) (mask / 2 ^ p.pos % 2 ^ p.n)) ∧
            u.cth.wait = .access ∧ SameMemory s u) ∧
        (s.isRelaxed m.cls l = true → ((s.accesses s.cth.uid).filter Access.outstanding).length < 16 →
          ∃ u : State, exec (.vst x m d) s = .next (u.advance none) ∧ { u with net := s.net } = s)))

/-- R197: VGATH and VSCAT, with any set of active lanes. Every active element is checked, lowest lane first, before any is performed; when
one fails its checks the instruction traps with no effect; ordinary elements are performed in lane order. Stated for elements in core and
cluster store that the thread may access now: the gather gives every active lane its element and leaves the others, the scatter leaves every
byte of memory with the last value that a lane stores there, the highest lane's, and every other byte as it was. When an element fails where
it is performed, the step that finds it stores nothing (R10, R316). Whether the elements are performed within one move, as in the first two
clauses, or in several is entry 68. -/
def Obligations.GatherScatter : Prop :=
  (∀ (s : State) (x : P1) (d : Fin 8) (m : MemOp) (place : Nat → Loc), s.issuing → s.gPending s.cth.uid m.base = false →
    s.vPending s.cth.uid d = false → s.cur.split = false → s.cth.trail = [] →
    let w := tyWidth x.ty
    let act := lanesOf s x (tyLanes x.ty)
    let at_ (r : Fin 8) (i : Nat) : Dword := offsetOf s m + BitVec.ofNat 64 (lane w s.cth.v[r.val] i)
    ((∀ i ∈ act, s.elementAt m (at_ d i) (w / 8) 8 .rd (place i)) →
      ∃ t : State, exec (.vgath x d m) s = .next t ∧ WentOn s t ∧ SameMemory s t ∧ t.cth.g = s.cth.g ∧
        (∀ r : Fin 8, r ≠ d → t.cth.v[r.val] = s.cth.v[r.val]) ∧
        ∀ i < tyLanes x.ty, lane w t.cth.v[d.val] i = if i ∈ act then s.bytesAt (place i) (w / 8) else lane w s.cth.v[d.val] i) ∧
    (s.vPending s.cth.uid (d + 1) = false →
      (∀ i ∈ act, s.elementAt m (at_ (d + 1) i) (w / 8) 4 (.wr (lane w s.cth.v[d.val] i) (fullMask (w / 8))) (place i)) →
      let stores := act.map (fun i => (place i, lane w s.cth.v[d.val] i))
      ∃ t : State, exec (.vscat x m d) s = .next t ∧ WentOn s t ∧ t.cth.g = s.cth.g ∧ t.cth.v = s.cth.v ∧ t.kns = s.kns ∧
        (∀ c a, rdB (t.core c).mem a = storedByte (w / 8) stores (.core c a) (rdB (s.core c).mem a)) ∧
        (∀ k a, rdB (t.clu k).mem a = storedByte (w / 8) stores (.clu k a) (rdB (s.clu k).mem a)))) ∧
  (∀ (s : State) (x : P1) (d : Fin 8) (m : MemOp) (i c : Nat) (e : Dword), s.gPending s.cth.uid m.base = false →
    s.vPending s.cth.uid d = false →
    let w := tyWidth x.ty
    let act := lanesOf s x (tyLanes x.ty)
    let first (r : Fin 8) (right : Nat) : Prop :=
      let chk (j : Nat) := s.segCheck m.sg (offsetOf s m + BitVec.ofNat 64 (lane w s.cth.v[r.val] j)) (w / 8) right (denyWindow (w / 8))
      (∀ j ∈ act, j < i → ∃ y, chk j = .ok y) ∧ chk i = .error (.trap c e)
    i ∈ act →
    (first d 8 → exec (.vgath x d m) s = .next (s.trapHere c e)) ∧
    (s.vPending s.cth.uid (d + 1) = false → first (d + 1) 4 → exec (.vscat x m d) s = .next (s.trapHere c e))) ∧
  (∀ (s u : State) (k c : Nat) (e : Dword) (cls : Cls) (op : Nat → POp) (dest : Dest) (es : List (Nat × Dword × Loc × Dword))
    (write : State → List Piece → State), elemsEff s k cls op dest es write = .error (.trapIn u c e) → SameMemory s u)

/-- R108, R110, R222: the phase instructions on a phase word that passes their checks. PHREAD gives the word's two halves; PHWAIT reads the
word and, when the generation differs from g[d][30:0], acquires, waiting for that where it must, and returns it; it waits else, changing
nothing; a waiting one reads again, after each write of a step and at the end of each step (entry 31), and when it is issued again. -/
def Obligations.PhaseInstructions : Prop :=
  (∀ (s t : State) (d r : Fin 24) (sc : Scope) (l : Loc) (w : Nat), s.gPending s.cth.uid r = false → s.gPending s.cth.uid d = false →
    let a := s.cth.g[r.val]
    let x := (s.cth.g[d.val]).toNat
    (s.phasePlace a 8 = .ok l → s.ordinary l 16 .rd (BitVec.ofNat 64 (raOffset a)) a = .ok (t, w) →
      (d.val < 23 → exec (.phread d r sc) s =
        .next ((writeG (writeG t d (BitVec.ofNat 64 w)) (d + 1) (BitVec.ofNat 64 (w / 2 ^ 64))).advance none)) ∧
      (s.cth.deferred = [] →
        (w % 2 ^ 31 ≠ x % 2 ^ 31 → s.returned s.cth.uid = true →
          exec (.phwait d r sc) s = .next (((writeG t d (BitVec.ofNat 64 (w % 2 ^ 31))).invalidate sc).advance none)) ∧
        (w % 2 ^ 31 ≠ x % 2 ^ 31 → s.returned s.cth.uid = false →
          exec (.phwait d r sc) s = .next (t.modCth (fun q => { q with
            wait := .acquire { res := some (.g d, BitVec.ofNat 64 (w % 2 ^ 31)), scope := sc, next := t.nextPc }, poisoned := none }))) ∧
        (w % 2 ^ 31 = x % 2 ^ 31 →
          exec (.phwait d r sc) s = .next (t.modCth (fun q => { q with wait := .poll (.phase l (x % 2 ^ 31) d sc t.nextPc) }))))) ∧
    (∀ c n s1 e d' sc' nx, (s.thread c n).ctl = .run → (s.thread c n).wait = .poll (.phase l e d' sc' nx) →
      s.fetch c n = .run s1 (.phwait d r sc) → ∃ u : State, exec (.phwaitReread c n) s = .next u ∧ exec (.phwait d r sc) s1 = .next u)) ∧
  (∀ (s : State) (c n e : Nat) (q : Thread) (l : Loc) (d : Fin 24) (sc : Scope) (nx : Dword),
    s.thread? c n = some q → q.ctl = .run → q.wait = .poll (.phase l e d sc nx) → q.deferred = [] →
    let gen := match l with
      | .core k a => pwGen (rdLE (s.core k).mem a 16)
      | .clu k a => pwGen (rdLE (s.clu k).mem a 16)
      | _ => 0
    s.phaseReads.thread? c n = some (if gen = e then q
      else { q with wait := .acquire { res := some (.g d, BitVec.ofNat 64 gen), scope := sc, next := nx } })) ∧
  (∀ (s t : State) (op : POp) (l : Loc) (n : Nat) (o ra : Dword) (x : Nat), opWrites op = true → s.cur.trail = [] → s.cur.split = false →
    s.ordinary l n op o ra = .ok (t, x) → s.once l n op o ra = .ok (t.phaseReads.noteAccess ra.toNat n op (some x) true, x))

/-- The frame of the instructions that only read memory: whatever their end (completion, a trap, a wait), no byte of any store changes. The
frame of the instructions that store: when they end, every byte of every store outside the stored place reads as before; the place is the
one the checks of R38 (or R222) find for the instruction's own address, through the leaf of a global page; those of a scatter are the ones
that its checks and the ways of its elements give, that of BADDQ is found in the machine in which its sources are read (R197, R204); where
they refuse, nothing changes. -/
def Obligations.MemoryFrames : Prop :=
  (∀ (s t : State) (d : Opnd) (m : MemOp) (w : Width) (g r : Fin 24) (sc : Scope) (x : P1) (v : Fin 8),
    ∀ i ∈ [Instr.ld d m w, .ldsx d m w, .ldacq d m w, .ldfe d m, .lea g m, .vld x v m, .vgath x v m, .phread g r sc, .phwait g r sc,
      .ifence sc, .fenceRel sc, .fenceAcq sc, .fenceFull sc],
    exec i s = .next t → SameMemory s t) ∧
  (∀ (s t : State) (o : Opnd) (m : MemOp) (w : Width) (g r h : Fin 24) (fmt : Ty) (keep : Bool) (rm : Option RMode)
      (aop : AmoOp) (sc : Scope) (x : P1) (v : Fin 8),
    let at_ (chk : Except Halt (Loc × Dword)) (n : Nat) : Prop :=
      match chk with
      | .ok (l, _) => SameMemoryBut s t (s.storedAt l) n
      | .error _ => SameMemory s t
    let off := offsetOf s m
    let n := widthBytes w
    let noWindow (sp : Nat) : Option Nat := if sp = 6 then some 0x04 else none
    (exec (.st m o w) s = .next t ∨ exec (.strel m o w) s = .next t → at_ (s.segCheck m.sg off n 4 (denyWindow n)) n) ∧
    (exec (.amo g r m w aop) s = .next t ∨ exec (.cas g r m w) s = .next t → at_ (s.segCheck m.sg off n 1 noWindow) n) ∧
    (exec (.stfe m o) s = .next t → at_ (s.segCheck m.sg off 8 4 denyFe) 8) ∧
    (exec (.vst x m v) s = .next t → at_ (s.segCheck m.sg off 64 4 (denyWindow 64)) 64) ∧
    (exec (.vscat x m v) s = .next t →
      let b := tyWidth x.ty
      let op (i : Nat) : POp := .wr (lane b s.cth.v[v.val] i) (fullMask (b / 8))
      match checkElems s m.sg (b / 8) 4 ((lanesOf s x (tyLanes x.ty)).map (fun i => (i, off + BitVec.ofNat 64 (lane b s.cth.v[(v + 1).val] i)))) with
      | .error _ => SameMemory s t
      | .ok es => match routeElems (b / 8) m.cls op (s.begins s.cth.trail false) es with
        | .error _ => SameMemory s t
        | .ok (_, ps, _) => SameMemoryButAll s t (ps.map Piece.place) (b / 8)) ∧
    (exec (.baddq g r h fmt keep rm) s = .next t →
      let da := s.cth.g[g.val]
      match s.place s.cur.core s.ctag (raSpace da) (raField da),
          s.sourcesRead ([s.cth.g[r.val], s.cth.g[h.val]] ++ if keep then [da] else []) with
      | some l, some u => SameMemoryBut s t (u.storedAt l) 64
      | _, _ => SameMemory s t) ∧
    (exec (.phinit g r) s = .next t → at_ ((s.phasePlace s.cth.g[r.val] 4).map (fun l => (l, 0))) 16) ∧
    (exec (.pharr g r sc) s = .next t → at_ ((s.phasePlace s.cth.g[r.val] 1).map (fun l => (l, 0))) 16))

/-! ## Relaxed accesses on their way -/

/-- R94, R100, R207, R211, R317: the reply of a performed relaxed access. A load's bytes go to its destination register, extended as the
load says, or to the lanes it writes, wherever its thread is; a failed one is reported to its thread before the next issue, and its register
stays pending until then; the reply of a stopped thread is discarded. The last ordinary piece of an access ends its instruction: it
completes, traps, or parks on the page of its next element, issued again at once if that page is there by now; its relaxed elements go on as
one relaxed access (R91, R197, R318). R45, R98, R100, R217: entries reach a link's incoming queue in order, a read buffer may drop any line,
and the oldest report of a thread is taken at a group boundary, an engine error and any other alike; what XSTAT then names is the model's
reading (entry 11). -/
def Obligations.RelaxedReplies : Prop :=
  (∀ (s : State) (i : Nat) (a : Access) (c n : Nat) (t : Thread),
    s.net[i]? = some a → a.performed = true → a.reported = false → a.ord = none → s.thread? c n = some t →
    s.lookUid a.iss.uid = some t →
    ∃ u : State, exec (.relaxedReply i) s = .next u ∧ u.kns = s.kns ∧
      (t.ctl = .stopReq → u = { s with net := s.net.eraseIdx i }) ∧
      (t.ctl ≠ .stopReq →
        (failureOf a.pieces = none → u.net = s.net.eraseIdx i ∧
          (∀ r w sx, a.dest = .g r w sx → (u.thread c n).g[r.val] =
            (if sx then BitVec.ofInt 64 (toSigned (8 * w) a.value) else BitVec.ofNat 64 (a.value % 2 ^ (8 * w)))) ∧
          (∀ r keep, a.dest = .v r keep →
            (u.thread c n).v[r.val] = (t.v[r.val] &&& keep) ||| (BitVec.ofNat 512 a.value &&& ~~~keep)) ∧
          (a.dest = .none ∨ a.dest = .gone → u.thread c n = t)) ∧
        (∀ cause v, failureOf a.pieces = some (cause, v) →
          (u.thread c n).reports = t.reports ++ [{ cause := cause, xpc := a.iss.pc, xval := v }] ∧
          (a.dest = .none ∨ a.dest = .gone → u.net = s.net.eraseIdx i) ∧
          (∀ r w sx, a.dest = .g r w sx → u.gPending a.iss.uid r = true)))) ∧
  (∀ (s : State) (i c n glen : Nat) (a : Access), s.net[i]? = some a → a.reported = false → a.ord = some glen → a.ordEnds = true →
    s.findUid a.iss.uid = some (c, n) → (s.thread c n).ctl ≠ .stopReq →
    let failed := failureOf (a.pieces.filter (fun q => q.ord))
    (∀ cause v, failed = some (cause, v) → exec (.relaxedReply i) s =
      .next (({ s with net := s.net.eraseIdx i } : State).takeTrap c n cause v a.iss.pc a.iss.pc glen false)) ∧
    (failed = none → a.park = none → ∃ u : State, exec (.relaxedReply i) s = .next u ∧
      (u.thread c n).pc = a.iss.pc + BitVec.ofNat 64 (2 * glen) ∧ (u.thread c n).wait = .ready ∧
      ((∀ q ∈ a.pieces, q.ord = true) → u.net = s.net.eraseIdx i ∧
        (∀ r keep, a.dest = .v r keep →
          (u.thread c n).v[r.val] = ((s.thread c n).v[r.val] &&& keep) ||| (BitVec.ofNat 512 a.value &&& ~~~keep)) ∧
        (∀ f, a.dest = .fflg f → (u.thread c n).fflg = (s.thread c n).fflg ||| f)) ∧
      ((∃ q ∈ a.pieces, q.ord = false) → u.net[i]? = some { a with ord := none, park := none })) ∧
    (∀ k, failed = none → a.park = some k → ∃ u : State, exec (.relaxedReply i) s = .next u ∧
      (u.thread c n).pc = (s.thread c n).pc ∧
      (u.thread c n).wait = if (s.missing (cluOf a.iss.core) k).isNone then .ready else .parked k)) ∧
  (∀ (s : State) (c : Nat) (d : Dir) (e : Dword) (es : List Dword), ((s.core c).link d).fly = e :: es →
    ((s.core c).link d).ent.length < 8 →
    ∃ u : State, exec (.linkEntryArrival c d) s = .next u ∧ ((u.core c).link d).ent = ((s.core c).link d).ent ++ [e] ∧
      ((u.core c).link d).fly = es ∧ { u with cores := s.cores } = s) ∧
  (∀ (s : State) (k i : Nat), i < (s.clu k).rbuf.length →
    ∃ u : State, exec (.readBufferEviction k i) s = .next u ∧ (u.clu k).rbuf = (s.clu k).rbuf.eraseIdx i ∧
      { u with clusters := s.clusters } = s) ∧
  (∀ (s : State) (c n : Nat) (t : Thread) (r : Report) (rs : List Report), s.thread? c n = some t → t.reports = r :: rs →
    t.ctl = .run → t.wait = .ready → t.trail = [] →
    let u := (({ s with net := s.net.filter (fun a => !(a.reported && a.iss.uid == t.uid)) } : State).modThread c n (fun t =>
      { t with reports := rs })).takeTrap c n r.cause r.xval r.xpc t.pc (s.groupLen c n) false
    (r.cause ≠ 0x0D → exec (.relaxedFault c n) s = .next u) ∧ (r.cause = 0x0D → exec (.engineErrorReport c n) s = .next u))

/-- R90, R91, R94, R95, R344, R354, R355, R357, R362: the way of a piece of a relaxed access. At the memory port a global piece takes the
frame of a leaf that grants its right, or is held on a page request; it notes what it pays for; a watchpoint that the access hits there
stops all of it (R335). The router passes a piece whose
destination is of its partition and drops any other, counted, with segment rights, as it does one whose logical core is not in the table;
the bank performs a piece that is in order, its old value kept for the reply. A piece leaves its port after those that go before it at its
bank; an ordinary store that a word or a link refuses is refused before its first piece is performed (R10, R93). -/
def Obligations.RelaxedTransport : Prop :=
  ∀ (s : State) (i j : Nat) (a : Access) (p : Piece), s.net[i]? = some a → a.pieces[j]? = some p →
    let u := s.unwait (a.req j)
    (∀ va, p.stage = .sent → p.loc = .glob va → s.portTurn i j a p = false → exec (.translationWalk i j) s = .next s) ∧
    (∀ va w, p.stage = .sent → p.loc = .glob va → s.portTurn i j a p = true → s.pieceHit a p = some w → a.elems = false →
      isGateway a.iss.core = false → exec (.translationWalk i j) s =
        .next (u.modNet i (fun a => { a with pieces := a.pieces.map (fun q => { q with stage := .failed 9 }) }))) ∧
    (∀ va x big, p.stage = .sent → p.loc = .glob va → s.portTurn i j a p = true → s.pieceHit a p = none →
      s.tlbHit (cluOf a.iss.core) a.iss.tag va = some (x, big) → pteRights x &&& opRight p.op ≠ 0 → ptePoison x = false →
      a.cls ≠ .rlxc → (s.die (stackDie (leafPhys x big va).1 (leafPhys x big va).2)).qosctl.getLsbD 0 = false →
      s.migHeld a.iss.tag va p.op = false →
      ∃ paid, exec (.translationWalk i j) s = .next ((u.modNet i (fun a => { a with paid := paid })).setPiece i j
        { p with stage := .arrived, phys := some (leafPhys x big va) })) ∧
    (∀ va reason, p.stage = .sent → p.loc = .glob va → s.portTurn i j a p = true → s.pieceHit a p = none →
      s.tlbHit (cluOf a.iss.core) a.iss.tag va = none → s.walk a.iss.tag va = .request reason →
      let k := pageKey (cluOf a.iss.core) a.iss.tag va
      exec (.translationWalk i j) s = .next ((u.request k reason false).setPiece i j { p with stage := .held k })) ∧
    (∀ sp x, p.stage = .sent → p.loc = .lost sp x → a.elemTurn j = true →
      exec (.packetEject i j) s = .next ((s.violate a.iss.tag 3 15 0 (bits x 39 29)).setPiece i j { p with stage := .failed 0x04 })) ∧
    (p.stage = .sent → a.elemTurn j = true → (∀ va, p.loc ≠ .glob va) → (∀ sp x, p.loc ≠ .lost sp x) →
      s.linked ((locPkg p.loc).getD s.boot.pkg) = true →
      (s.ejects a.iss.tag p.loc p.n = none →
        exec (.packetEject i j) s = .next (s.setPiece i j { p with stage := .arrived })) ∧
      (∀ place owner core off, s.ejects a.iss.tag p.loc p.n = some (place, owner, core, off) →
        exec (.packetEject i j) s =
          .next ((s.violate a.iss.tag place owner core off).setPiece i j { p with stage := .failed 0x04 }))) ∧
    (∀ t v, p.stage = .arrived → s.inOrder i j a p = true → (∃ c x, p.loc = .core c x) ∨ (∃ k x, p.loc = .clu k x) →
      (if p.ord then a.refused = false ∧ s.refusing a = none else s.pieceHit a p = none) → s.bank a.iss.tag p.loc p.n p.op = .ok t v →
      exec (.bankPerform i j) s = .next (t.setPiece i j { p with stage := .done v })) ∧
    (∀ k, p.stage = .arrived → s.inOrder i j a p = true → p.ordStore = true → a.refused = false → s.refusing a = some k →
      ∃ q, a.pieces[k]? = some q ∧ q.ord = true ∧ exec (.bankPerform i j) s = .next (s.setPiece i k { q with stage := .failed 0x0C })) ∧
    (s.setPiece i j p).net.length = s.net.length

/-! ## Page 1: floating point and lanes (chapters 06, 09, 10) -/

/-- R179, R180, R182 to R184, R186 to R188, R46: the scalar form of each floating-point instruction, for registers, queues and links. Its
operands are taken in the order d, s, t, only those it reads; when it raises no enabled flag it completes, its result written to d and its
flags set. FCVT of an e5m2 infinity to e5m2 with sat8 gives 57,344 of its sign, as R124 says of every such conversion, where R188 returns S:
the model's choice (entry 16). -/
def Obligations.FloatScalarForms : Prop :=
  ∀ (s s1 s2 s3 : State) (x : P1) (d o t : Opnd) (rm : Option RMode) (tt : Ty) (a b c : Dword), x.sc = true →
    ∀ e ∈ floatOps s x d o t rm tt,
      (if e.rd then readO s d = .ok (a, s1) else (a, s1) = (0, s)) → readO s1 o = .ok (b, s2) →
      (if e.three then readO s2 t = .ok (c, s3) else (c, s3) = (0, s2)) →
      let r := e.f a.toNat b.toNat c.toNat
      ∃ y : Dword, (if e.sg then y.toInt = toSigned e.wd r.1 else y.toNat = r.1 % 2 ^ e.wd) ∧
        ∀ u, writeO s3 d y = .ok u → r.2 &&& u.cth.fctl.te = 0 →
          exec e.ins s = .next ((if r.2 = 0 then u else u.modCth (fun t => { t with fflg := t.fflg ||| r.2 })).advance none)

/-- R179, R180, R182 to R188: the vector form of each floating-point instruction. When no active lane raises an enabled flag, every active
lane of d holds its result, the lanes past the count of a conversion are zero, the other lanes keep their value, FFLG gains the flags of the
active lanes, and nothing else of the machine changes. The model's choices: that FCVT of an e5m2 infinity to e5m2 with sat8 clamps (entry
16), and that a g operand of ICVTF is broadcast at the width of the integer type (entry 14). -/
def Obligations.FloatVectorForms : Prop :=
  ∀ (s : State) (x : P1) (d : Fin 8) (o t : Opnd) (rm : Option RMode) (tt : Ty) (a b c : Vec), s.issuing → x.sc = false →
    ∀ e ∈ floatOps s x (.v d) o t rm tt, laneSources s e d (.op o) t a b c →
      let act := lanesOf s x e.n
      let fl (i : Nat) : Fl := (e.at a b c i).2
      allFlags act fl &&& s.cth.fctl.te = 0 →
      ∃ u : State, exec e.ins s = .next u ∧ WentOn s u ∧ OnlyThread s u keepV ∧ u.cth.fflg = s.cth.fflg ||| allFlags act fl ∧
        (∀ r : Fin 8, r ≠ d → u.cth.v[r.val] = s.cth.v[r.val]) ∧
        ∀ i < 512 / e.wd, lane e.wd u.cth.v[d.val] i =
          if i ∈ act then (e.at a b c i).1 % 2 ^ e.wd
          else if e.zero ∧ e.n ≤ i then 0 else lane e.wd s.cth.v[d.val] i

/-- R179, R180, R190, R121: the integer lane instructions: every active lane takes its result, no other changes; a
clamped sum raises SAT. -/
def Obligations.IntegerLanes : Prop :=
  ∀ (s : State) (x : P1) (d : Fin 8) (o : Src) (a b c : Vec), s.issuing → x.sc = false →
    ∀ e ∈ intOps x d o, laneSources s e d o (.v 0) a b c →
      let act := lanesOf s x e.n
      let fl (i : Nat) : Fl := (e.at a b c i).2
      allFlags act fl &&& s.cth.fctl.te = 0 →
      ∃ u : State, exec e.ins s = .next u ∧ WentOn s u ∧ OnlyThread s u keepV ∧ u.cth.fflg = s.cth.fflg ||| allFlags act fl ∧
        (∀ r : Fin 8, r ≠ d → u.cth.v[r.val] = s.cth.v[r.val]) ∧
        ∀ i < 512 / e.wd, lane e.wd u.cth.v[d.val] i =
          if i ∈ act then (e.at a b c i).1 % 2 ^ e.wd else lane e.wd s.cth.v[d.val] i

/-- R10, R12, R168, R180: an instruction one of whose active lanes raises an enabled flag sets FFLG, writes no register, takes no queue or
link entry, and traps: cause 0x07 when NF is among the enabled flags raised, else 0x06, XVAL the lanes that raised one. Stated for both
forms of every floating-point instruction and for the integer lane instructions, of which VSADD alone raises a flag; VRED, VSCAN and VDOT
stand in LaneCombination, BADDQ in NarrowFormats. R122, R125, R189: FGET and FSET. FGET writes FFLG or FCTL to d; FSET writes FFLG[6:0], or
FCTL, and a rounding mode of 5 to 7 is an illegal instruction that leaves FCTL. FGET of FFLG takes the deferred matrix traps first,
together: XPC is that of the first issued, the cause 0x07 when any of them raised NF. -/
def Obligations.FlagTraps : Prop :=
  (∀ (s : State) (x : P1) (d : Fin 8) (o t : Opnd) (so : Src) (rm : Option RMode) (tt : Ty) (a b c : Vec), s.issuing → x.sc = false →
    let te := s.cth.fctl.te
    let traps (e : LaneOp) : Prop :=
      let act := lanesOf s x e.n
      let fl (i : Nat) : Fl := (e.at a b c i).2
      allFlags act fl &&& te ≠ 0 →
      ∃ lanes : Dword, flagLanes te act fl lanes ∧
        exec e.ins s = .next ((s.modCth (fun t => { t with fflg := t.fflg ||| allFlags act fl })).trapHere
          (if (allFlags act fl &&& te).getLsbD 5 then 0x07 else 0x06) lanes)
    (∀ e ∈ floatOps s x (.v d) o t rm tt, laneSources s e d (.op o) t a b c → traps e) ∧
    (∀ e ∈ intOps x d so, laneSources s e d so (.v 0) a b c → traps e)) ∧
  (∀ (s s1 s2 s3 u : State) (x : P1) (d o t : Opnd) (rm : Option RMode) (tt : Ty) (a b c y : Dword), s.issuing → x.sc = true →
    ∀ e ∈ floatOps s x d o t rm tt,
      (if e.rd then readO s d = .ok (a, s1) else (a, s1) = (0, s)) → readO s1 o = .ok (b, s2) →
      (if e.three then readO s2 t = .ok (c, s3) else (c, s3) = (0, s2)) →
      let r := e.f a.toNat b.toNat c.toNat
      (if e.sg then y.toInt = toSigned e.wd r.1 else y.toNat = r.1 % 2 ^ e.wd) → writeO s3 d y = .ok u → r.2 &&& s.cth.fctl.te ≠ 0 →
      exec e.ins s = .next ((s.modCth (fun t => { t with fflg := t.fflg ||| r.2 })).trapHere
        (if (r.2 &&& s.cth.fctl.te).getLsbD 5 then 0x07 else 0x06) 1)) ∧
  (∀ (s : State) (d : Fin 24), s.gPending s.cth.uid d = false →
    let x := s.cth.g[d.val]
    let f := s.cth.fctl
    (s.cth.deferred = [] → exec (.fget d false) s = .next ((writeG s d (s.cth.fflg.setWidth 64)).advance none)) ∧
    (∃ y : Dword, exec (.fget d true) s = .next ((writeG s d y).advance none) ∧
      y.toNat = rmCode f.rm + f.te.toNat * 256 + (if f.sat8 then 32768 else 0)) ∧
    exec (.fset d false) s = .next ((s.modCth (fun t => { t with fflg := x.setWidth 7 })).advance none) ∧
    (x.toNat % 8 < 5 → ∃ c : Fctl, rmCode c.rm = x.toNat % 8 ∧ c.te = (x >>> 8).setWidth 7 ∧ c.sat8 = x.getLsbD 15 ∧
      exec (.fset d true) s = .next ((s.modCth (fun t => { t with fctl := c })).advance none)) ∧
    (5 ≤ x.toNat % 8 → exec (.fset d true) s = .next (s.trapHere 0x01 (s.baseIllegal 10))) ∧
    (∀ q qs, s.cth.deferred = q :: qs → exec (.fget d false) s =
      .next ((s.modCth (fun t => { t with deferred := [] })).takeTrap s.cur.core s.cur.slot
        (if (q :: qs).any (fun x => x.flags.getLsbD 5) then 7 else 6) 1 q.xpc s.cur.pc s.cur.glen true)))

/-- R185, R191: FCMP and VCMP in the vector form write one bit of a k register for each active lane, keep the bits of the other lanes and
clear the bits past the lane count; in the scalar form FCMP writes 1 or 0. -/
def Obligations.Comparisons : Prop :=
  (∀ (s : State) (x : P1) (j : Fin 8) (o t : Opnd) (c : FCond) (ic : ICond) (b e : Vec), s.issuing → x.sc = false →
    readLanes s (tyWidth x.ty) o = .ok b → readLanes s (tyWidth x.ty) t = .ok e →
    let n := tyLanes x.ty
    let w := tyWidth x.ty
    let act := lanesOf s x n
    let fc (i : Nat) : Bool × Fl := opCmp c x.ty (lane w b i) (lane w e i)
    let vc (i : Nat) : Bool := icondHolds ic (intVal x.ty (lane w b i)) (intVal x.ty (lane w e i))
    let writes (i : Instr) (f : Nat → Bool) (fl : Fl) : Prop :=
      ∃ u : State, exec i s = .next u ∧ WentOn s u ∧ OnlyThread s u keepK ∧ u.cth.fflg = s.cth.fflg ||| fl ∧
        (∀ r : Fin 8, r ≠ j → u.cth.k[r.val] = s.cth.k[r.val]) ∧
        ∀ q < 64, (u.cth.k[j.val]).getLsbD q = if q ∈ act then f q else if q < n then (s.cth.k[j.val]).getLsbD q else false
    (allFlags act (fun i => (fc i).2) &&& s.cth.fctl.te = 0 →
      writes (.fcmp x (.k j) o t c) (fun i => (fc i).1) (allFlags act (fun i => (fc i).2))) ∧
    writes (.vcmp x j o t ic) vc 0) ∧
  (∀ (s s1 s2 u : State) (x : P1) (d o t : Opnd) (c : FCond) (b e : Dword), x.sc = true → readO s o = .ok (b, s1) →
    readO s1 t = .ok (e, s2) →
    let r := opCmp c x.ty b.toNat e.toNat
    writeO s2 d (if r.1 then 1 else 0) = .ok u → r.2 &&& u.cth.fctl.te = 0 →
    exec (.fcmp x d o t c) s = .next ((if r.2 = 0 then u else u.modCth (fun t => { t with fflg := t.fflg ||| r.2 })).advance none))

/-- R115, R123, R124: rounding to each format, whose largest finite value, infinity (or what stands for it), canonical NaN and fraction bits
are written out. A value that the format holds gives its own encoding, with no flag, in every mode; a NaN gives the canonical one. A value x
of units of 2^(e − j) that lies between the neighbours p and p + 1, k and k + 1 in units of 2^e, gives the one its mode chooses, with NX,
and UF where it is tiny when it is rounded with an unbounded exponent; past the largest finite value it overflows. -/
def Obligations.Rounding : Prop :=
  ∀ f ∈ [(Ty.f64, 0x7FEFFFFFFFFFFFFF, 0x7FF0000000000000, 0x7FF8000000000000, 52), (.f32, 0x7F7FFFFF, 0x7F800000, 0x7FC00000, 23),
      (.f16, 0x7BFF, 0x7C00, 0x7E00, 10), (.bf16, 0x7F7F, 0x7F80, 0x7FC0, 7), (.e4m3, 0x7E, 0x7E, 0x7F, 3), (.e5m2, 0x7B, 0x7C, 0x7E, 2)],
    ∀ (m : RMode) (sat8 : Bool),
      let ty := f.1
      let (top, inf, nan, mb) := f.2
      let signed (neg : Bool) (p : Nat) : Nat := (if neg then 2 ^ (tyWidth ty - 1) else 0) + p
      let clamps := ty = .e4m3 ∨ (ty = .e5m2 ∧ sat8 = true)
      (∀ x < 2 ^ tyWidth ty, ∀ neg k e, decodeF ty x = .fin neg k e → roundTo ty m sat8 (decodeF ty x) = (x, 0)) ∧
      (∀ sig, roundTo ty m sat8 (.nan sig) = (nan, if sig then fNV else 0)) ∧
      (∀ neg, roundTo ty m sat8 (.inf neg) = if clamps then (signed neg top, fOF ||| fNX) else (signed neg inf, 0)) ∧
      (∀ p ≤ top, ∀ k e, decodeF ty p = .fin false k e → ∀ (neg : Bool) (j x : Nat), k * 2 ^ j < x →
        let up : Bool := match m with
          | .rtz => false
          | .rup => !neg
          | .rdn => neg
          | .rne => decide ((2 * k + 1) * 2 ^ j < 2 * x) || (decide ((2 * k + 1) * 2 ^ j = 2 * x) && decide (p % 2 = 1))
          | .rmm => decide ((2 * k + 1) * 2 ^ j ≤ 2 * x)
        let toNormal : Bool := match m with
          | .rtz => false
          | .rup => !neg && decide ((2 * k + 1) * 2 ^ j < 2 * x)
          | .rdn => neg && decide ((2 * k + 1) * 2 ^ j < 2 * x)
          | .rne | .rmm => decide ((4 * k + 3) * 2 ^ j ≤ 4 * x)
        let tiny : Bool := decide (p + 1 < 2 ^ mb) || (decide (p + 1 = 2 ^ mb) && !toNormal)
        let toInf : Bool := match m with
          | .rne | .rmm => true
          | .rtz => false
          | .rup => !neg
          | .rdn => neg
        (x < (k + 1) * 2 ^ j → p < top ∨ up = false → roundTo ty m sat8 (.fin neg x (e - j)) =
          (signed neg (if up then p + 1 else p), fNX ||| (if tiny then fUF else 0))) ∧
        (p = top → up = true ∨ (k + 1) * 2 ^ j ≤ x → roundTo ty m sat8 (.fin neg x (e - j)) =
          (signed neg (if clamps ∨ toInf = false then top else inf), fOF ||| fNX)))

/-- R115, R116, R117, R124: the special results of the arithmetic: a NaN operand gives the canonical NaN, with NV only for a signalling
one; infinities of opposite sign, zero times an infinity, zero over zero and the root of a negative number are invalid; a nonzero number
over zero is a division by zero; a zero sum of opposite signs is −0 only when rounding down. R183, R184, R185: the order of floating-point
values: minimum and maximum give one operand's bits, with −0 below +0, or the canonical NaN; comparisons are false on a NaN and hold −0 =
+0; FABS, FNEG and FCPYS change the sign bit alone. -/
def Obligations.SpecialResults : Prop :=
  (∀ (t : Ty) (m : RMode) (g z : Bool) (b : Fp) (k : Nat) (e e' : Int), b.isSig = false →
    (rounded t m false (fpAdd m (.nan g) b)).1 = nanF t ∧ (fpAdd m (.nan g) b).2 = flagIf g fNV ∧
    (rounded t m false (fpMul (.nan g) b)).1 = nanF t ∧ (fpMul (.nan g) b).2 = flagIf g fNV ∧
    fpAdd m (.inf z) (.inf !z) = (.nan false, fNV) ∧ fpMul (.inf z) (.fin g 0 e) = (.nan false, fNV) ∧
    fpDiv (.fin z 0 e) (.fin g 0 e') = (.nan false, fNV) ∧
    (k ≠ 0 → fpDiv (.fin z k e) (.fin g 0 e') = (.inf (z != g), fDZ)) ∧
    (k ≠ 0 → fpSqrt (.fin true k e) = (.nan false, fNV)) ∧ fpSqrt (.fin true 0 e) = (.fin true 0 e, 0) ∧
    (k ≠ 0 → ∃ e0, fpAdd m (.fin z k e) (.fin (!z) k e) = (.fin (decide (m = .rdn)) 0 e0, 0))) ∧
  (∀ (t : Ty) (a b : Nat), a < 2 ^ (floatFmt t).w → b < 2 ^ (floatFmt t).w →
    let w := (floatFmt t).w
    let x := decodeF t a
    let y := decodeF t b
    (x.isNan = false → y.isNan = false →
      (opMinMax false true t a b).1 = (if fpLt y x ∨ (x.isZero ∧ y.isZero ∧ y.neg? ∧ ¬ x.neg?) then b else a) ∧
      (opMinMax true true t a b).1 = (if fpLt x y ∨ (x.isZero ∧ y.isZero ∧ x.neg? ∧ ¬ y.neg?) then b else a)) ∧
    (x.isNan = true → y.isNan = false → (opMinMax false true t a b).1 = b ∧ (opMinMax false false t a b).1 = nanF t) ∧
    (x.isNan = true → y.isNan = true → (opMinMax true true t a b).1 = nanF t) ∧
    (x.isNan = true ∨ y.isNan = true → (opCmp .eq t a b).1 = false ∧ (opCmp .lt t a b).1 = false ∧ (opCmp .le t a b).1 = false ∧
      (opCmp .un t a b).1 = true ∧ (opCmp .ne t a b).1 = true) ∧
    (x.isZero = true → y.isZero = true → opCmp .eq t a b = (true, 0)) ∧
    (∀ i < w, bitAt (opAbs t a) i = (decide (i + 1 ≠ w) && bitAt a i)) ∧
    (∀ i < w, bitAt (opNeg t a) i = (decide (i + 1 = w) != bitAt a i)) ∧
    (∀ i < w, bitAt (opCpys t a b) i = if i + 1 = w then bitAt b i else bitAt a i))

/-- R193, R195: the lane movements and the mask operations, with their sources readable: each completes, writes the register its rule
names as the rule says, and raises no flag. R195: KOP on mask registers and broadcast g registers. -/
def Obligations.LaneMovement : Prop :=
  (∀ (s : State) (x : P1) (d o : Fin 8) (p q t : Fin 16) (so to_ : Opnd) (c : Dword) (b i : Vec), x.sc = false →
    s.vPending s.cth.uid o = false → s.vPending s.cth.uid d = false →
    (∀ r : Fin 16, s.gPending s.cth.uid (gOf r) = false) → readLanes s (tyWidth x.ty) so = .ok b → readLanes s (tyWidth x.ty) to_ = .ok i →
    let w := tyWidth x.ty
    let n := tyLanes x.ty
    let act := lanesOf s x n
    let at_ := (s.cth.g[(gOf t).val]).toNat % n
    let lanes (ins : Instr) (f : Nat → Nat) : Prop :=
      ∃ v : Vec, exec ins s = .next ((writeV s d v).advance none) ∧
        ∀ j < n, lane w v j = if j ∈ act then f j else lane w s.cth.v[d.val] j
    lanes (.vmov x d so) (fun j => lane w b j) ∧ lanes (.vbcast x d so) (fun _ => lane w b 0) ∧
    lanes (.vperm x d so to_) (fun j => lane w b (lane w i j % n)) ∧
    lanes (.vslide x d (.imm c)) (fun j => if j + c.toNat < n then lane w s.cth.v[d.val] (j + c.toNat) else 0) ∧
    (let z := (s.cth.g[(gOf q).val]).toNat
     lanes (.vslide x d (.op (.b q))) (fun j => if j + z < n then lane w s.cth.v[d.val] (j + z) else 0)) ∧
    (∃ y : Dword, exec (.vext x p o t) s = .next ((writeG s (gOf p) y).advance none) ∧
      (if tySigned x.ty then y.toInt = toSigned w (lane w s.cth.v[o.val] at_) else y.toNat = lane w s.cth.v[o.val] at_)) ∧
    (∃ v : Vec, exec (.vins x d q t) s = .next ((writeV s d v).advance none) ∧
      ∀ j < n, lane w v j = if j = at_ then (s.cth.g[(gOf q).val]).toNat % 2 ^ w else lane w s.cth.v[d.val] j)) ∧
  (∀ (s : State) (d o : Fin 8) (g : Fin 16), s.gPending s.cth.uid (gOf g) = false →
    let a := s.cth.k[d.val]
    let b := s.cth.k[o.val]
    let k (op : KOp) (y : Dword) : Prop := exec (.kop (.k d) (.k o) op) s = .next ((writeK s d y).advance none)
    k .and (a &&& b) ∧ k .or (a ||| b) ∧ k .xor (a ^^^ b) ∧ k .andn (a &&& ~~~b) ∧ k .not (~~~b) ∧ k .mov b ∧
    (∃ y : Dword, exec (.kop (.b g) (.k o) .pop) s = .next ((writeG s (gOf g) y).advance none) ∧
      y.toNat = ((List.range 64).filter (fun i => b.getLsbD i)).length) ∧
    (∃ y : Dword, exec (.kop (.b g) (.k o) .first) s = .next ((writeG s (gOf g) y).advance none) ∧
      if b = 0 then y = 64 else b.getLsbD y.toNat = true ∧ y.toNat < 64 ∧ ∀ j < y.toNat, b.getLsbD j = false) ∧
    exec (.kop (.k d) (.b g) .mov) s = .next ((writeK s d s.cth.g[(gOf g).val]).advance none) ∧
    exec (.kop (.b g) (.k o) .mov) s = .next ((writeG s (gOf g) b).advance none))

/-- R192, R194, R203: the dot products, the ternary products, the reductions and scans, with their sources readable. VDOT and TACC add the
exact sum of products of each active 32-bit lane, modulo 2^32 or clamped with SAT; VRED combines the active lanes into lane 0; VSCAN gives
each active lane the combination of the lanes up to it: in order or by the tree, each operation rounded once in the instruction's mode
(R129), with the flags of the roundings that form a value; integer add, min and max, and the identity of an empty reduction, raise nothing.
An enabled flag traps and writes no register. That TACC reads 32-bit lanes of a broadcast g operand is the model's choice (entry 14). -/
def Obligations.LaneCombination : Prop :=
  ∀ (s : State) (x : P1) (d : Fin 8) (o t : Opnd) (tree : Bool) (op : RedOp) (rm : Option RMode) (b c : Vec), s.issuing → x.sc = false →
    s.vPending s.cth.uid d = false → readLanes s (tyWidth x.ty) o = .ok b → readLanes s (tyWidth x.ty) t = .ok c →
    let w := tyWidth x.ty
    let D := s.cth.v[d.val]
    let val := intVal x.ty
    let te := s.cth.fctl.te
    -- the instruction writes lanes f of width w of n to d and raises fl; or an enabled flag of fl traps with the lanes that raised one
    let writes (i : Instr) (w n : Nat) (f : Nat → Nat) (fl : Fl) : Prop := fl &&& te = 0 →
      ∃ u : State, exec i s = .next u ∧ WentOn s u ∧ OnlyThread s u keepV ∧ u.cth.fflg = s.cth.fflg ||| fl ∧
        (∀ r : Fin 8, r ≠ d → u.cth.v[r.val] = s.cth.v[r.val]) ∧ ∀ j < n, lane w u.cth.v[d.val] j = f j
    let traps (i : Instr) (fl : Fl) (raised : Nat → Bool) : Prop := fl &&& te ≠ 0 → ∃ lanes : Dword,
      (∀ j < 64, lanes.getLsbD j = raised j) ∧ exec i s = .next ((s.modCth (fun t => { t with fflg := t.fflg ||| fl })).trapHere
        (if (fl &&& te).getLsbD 5 then 0x07 else 0x06) lanes)
    (x.ty ∈ [Ty.i8, .n8, .i16, .n16] →
      let acc := if tySigned x.ty then Ty.i32 else .n32
      let act := lanesOf s x 16
      let g := 32 / w
      let exact (j : Nat) : Int := intVal acc (lane 32 D j) +
        ((List.range g).map (fun m => val (lane w b (g * j + m)) * val (lane w c (g * j + m)))).sum
      (∃ v : Vec, exec (.vdot x d o t false) s = .next ((writeV s d v).advance none) ∧
        ∀ j < 16, lane 32 v j = if j ∈ act then (exact j % 2 ^ 32).toNat else lane 32 D j) ∧
      (let past (j : Nat) : Bool := act.contains j && !(decide (loTy acc ≤ exact j) && decide (exact j ≤ hiTy acc))
       let fl : Fl := if (List.range 16).any past then fSAT else 0
       writes (.vdot x d o t true) 32 16
         (fun j => if j ∈ act then (max (loTy acc) (min (exact j) (hiTy acc)) % 2 ^ 32).toNat else lane 32 D j) fl ∧
       traps (.vdot x d o t true) fl past)) ∧
    (x.ty = .i32 → ∃ v : Vec, exec (.tacc x d o t) s = .next ((writeV s d v).advance none) ∧
      ∀ j < 16, lane 32 v j = if j ∈ lanesOf s x 16 then
        (((lane 32 D j : Int) + ((List.range 4).map (fun m =>
          (toSigned 8 (lane 8 b (4 * j + m))).sign * toSigned 8 (lane 8 c (4 * j + m)))).sum) % 2 ^ 32).toNat
        else lane 32 D j) ∧
    (let float := x.ty ∈ [Ty.f64, .f32, .f16, .bf16]
     float ∨ x.ty.isI = true →
      let l := redLanes s x b
      let m := roundMode s rm
      let f := redFn x.ty op m
      let n := tyLanes x.ty
      let act := lanesOf s x n
      let or1 := (redIdentity x.ty op, 0)
      let whole := (if tree then treeReduce f (Nat.log2 n) l else ordReduce f l).getD or1
      let upTo (j : Nat) := (if tree then treeScan f (j + 1) 7 (l.take (j + 1)) none else ordReduce f (l.take (j + 1))).getD or1
      let vred : Instr := .vred x d o tree op rm
      let vscan : Instr := .vscan x d o tree op rm
      let fl := allFlags act (fun j => (upTo j).2)
      writes vred w n (fun j => if j = 0 then whole.1 % 2 ^ w else lane w D j) whole.2 ∧ traps vred whole.2 (fun j => j == 0) ∧
      writes vscan w n (fun j => if j ∈ act then (upTo j).1 % 2 ^ w else lane w D j) fl ∧
      traps vscan fl (fun j => act.contains j && decide ((upTo j).2 &&& te ≠ 0)) ∧
      (x.ty.isI = true → whole.2 = 0 ∧ ∀ j, (upTo j).2 = 0) ∧
      (∀ p q : Nat, f p q = (if float then (match op with
          | .add => rounded x.ty m false (fpAdd m (decodeF x.ty p) (decodeF x.ty q))
          | .min => opMinMax false true x.ty p q
          | .max => opMinMax true true x.ty p q)
        else ((match op with
          | .add => ((val p + val q) % (2 ^ w : Nat)).toNat
          | .min => if val p ≤ val q then p else q
          | .max => if val p ≤ val q then q else p), 0))) ∧
      redIdentity x.ty op = (match op with
        | .add => 0
        | .min => if float then infF x.ty false else (hiTy x.ty % (2 ^ w : Nat)).toNat
        | .max => if float then infF x.ty true else (loTy x.ty % (2 ^ w : Nat)).toNat))

/-- R118 to R120, R198 to R202: the narrow formats: QPACK, BSCL, QUNP and TUNP with their sources readable and no flag enabled. QPACK writes
the image of the active lanes under the scale in D; BSCL the scale that suits them; QUNP and TUNP decode an image and ternary bytes into the
active lanes. R204: BADDQ. Its three addresses are checked in the order d, s, t; the images at s and t are decoded, added exactly element by
element, and the image of the sums is stored at d, under the scale of R199, or, with keep, under that of the image that stands there. The
flags of an element are those of its decoding, its sum, its scale and its encoding; without an enabled one FFLG gains them as the
instruction completes, with one it traps and nothing is stored. Its accesses are made within one step (entry 68). Its scaling is that of
R200 (the model's choice: entry 10). -/
def Obligations.NarrowFormats : Prop :=
  (∀ (s : State) (x : P1) (d o : Fin 8) (g : Fin 16) (tt : Ty) (rm : Option RMode), s.cth.fctl.te = 0 → x.sc = false →
    s.vPending s.cth.uid d = false → s.vPending s.cth.uid o = false →
    let V := s.cth.v[o.val]
    let m := maskBits s x.mask
    (∃ u : State, exec (.qpack x d o tt rm) s = .next u ∧ u.cth.v[d.val] = BitVec.ofNat 512
        (packImage tt (roundMode s rm) s.cth.fctl.sat8 ((s.cth.v[d.val]).toNat % 256)
          (fun i => if active m i then some (decodeF x.ty (lane 16 V i)) else none)).1) ∧
    (∃ u : State, exec (.bscl x g o tt) s = .next u ∧ u.cth.g[(gOf g).val] = BitVec.ofNat 64
        (blockScale tt ((lanesOf s x 32).map (fun i => (i, decodeF x.ty (lane 16 V i))))).1) ∧
    (∃ u : State, exec (.qunp x d o) s = .next u ∧ ∀ i < 32, lane 16 u.cth.v[d.val] i =
        if i ∈ lanesOf s x 32 then (roundTo x.ty s.cth.fctl.rm false (imageElem V.toNat i).1).1 % 2 ^ 16
        else lane 16 s.cth.v[d.val] i) ∧
    (∃ u : State, exec (.tunp x d o) s = .next u ∧ ∀ i < 64, lane 8 u.cth.v[d.val] i =
        if i ∈ lanesOf s x 64 then
          (let y := lane 8 V (i / 5); if 243 ≤ y then 0 else (y / 3 ^ (i % 5) % 3 + 255) % 256)
        else lane 8 s.cth.v[d.val] i)) ∧
  (∀ (s s1 s2 s3 : State) (d r t : Fin 24) (fmt : Ty) (keep : Bool) (rm : Option RMode) (a b old : Nat),
    s.readable [d, r, t] → s.cur.split = false → s.cth.trail = [] →
    let da := s.cth.g[d.val]
    let sa := s.cth.g[r.val]
    let ta := s.cth.g[t.val]
    s.blockCheck da (if keep then 12 else 4) = .ok () → s.blockCheck sa 8 = .ok () → s.blockCheck ta 8 = .ok () →
    s.viaAddress sa 64 .rd sa = .ok (s1, a) → s1.viaAddress ta 64 .rd ta = .ok (s2, b) →
    (if keep then s2.viaAddress da 64 .rd da = .ok (s3, old) else s3 = s2) → s3.cth.fctl = s.cth.fctl →
    let m := roundMode s rm
    let te := s.cth.fctl.te
    let sum (i : Nat) : Fp × Fl := fpAdd m (imageElem a i).1 (imageElem b i).1
    let scale := blockScale fmt (tab 32 (fun i => (i, (sum i).1)))
    let image := packImage fmt m s.cth.fctl.sat8 (if keep then old / 2 ^ 256 % 2 ^ 8 else scale.1)
      (fun i => if i < 32 then some (sum i).1 else none)
    let of (l : List (Nat × Fl)) (i : Nat) : Fl := l.foldl (fun f e => if e.1 = i then f ||| e.2 else f) 0
    let fl (i : Nat) : Fl := (imageElem a i).2 ||| (imageElem b i).2 ||| (sum i).2 ||| (if keep then 0 else of scale.2 i) ||| of image.2 i
    let all := allFlags (List.range 32) fl
    (∀ u z, all &&& te = 0 → s3.viaAddress da 64 (.wr image.1 (fullMask 64)) da = .ok (u, z) →
      exec (.baddq d r t fmt keep rm) s = .next ((u.modCth (fun t => { t with fflg := t.fflg ||| all })).advance none)) ∧
    (all &&& te ≠ 0 → ∃ lanes : Dword, flagLanes te (List.range 32) fl lanes ∧ exec (.baddq d r t fmt keep rm) s =
      .next (((s.keepLog s3).modCth (fun t => { t with fflg := t.fflg ||| all })).trapHere (if (all &&& te).getLsbD 5 then 0x07 else 0x06)
        lanes)))

/-! ## Copies and the matrix unit (chapters 11, 12) -/

/-- R214 to R216, R219: COPY, COPY2D and NOTICE, with the thread's relaxed accesses performed and the group readable. Each goes on after
its kick: the streamer, or the receiving cluster's copy engine when an entry is free, one of the partition's four reserved ones or else one
of the twelve shared, holds the operation with the group's values; nothing
else changes. A thread with relaxed accesses to perform waits. That a NOTICE over a link that is down is reported as an engine error with
XVAL the destination is the model's choice (entry 89). -/
def Obligations.CopyKicks : Prop :=
  ∀ (s : State) (d : Fin 24) (swz : Fin 8), (∀ r, s.gPending s.cth.uid r = false) →
    let g (i : Nat) : Dword := s.cth.g.toList.getD (d.val + i) 0
    (s.drained s.cth.uid = false → ∀ i ∈ [Instr.copy d swz, .copy2d d swz, .notice d],
      exec i s = .next (s.modCth (fun t => { t with wait := .poll .drain }))) ∧
    (s.drained s.cth.uid = true →
      (d.val + 4 ≤ 24 → ∃ c : Copy, exec (.copy d swz) s = .next (State.advance { s with copies := s.copies ++ [c] } none) ∧
        c.kind = .copy ∧ c.iss = s.issuer ∧ c.dst = g 0 ∧ c.src = g 1 ∧ c.pws = [g 3] ∧ c.swz = swz.val ∧ c.checked = false ∧
        c.uncounted = [] ∧ c.rows = 1 ∧ c.cnt = (g 2).toNat ∧ c.line = (g 2).toNat / 8) ∧
      (d.val + 6 ≤ 24 → ∃ c : Copy, exec (.copy2d d swz) s = .next (State.advance { s with copies := s.copies ++ [c] } none) ∧
        c.kind = .copy ∧ c.iss = s.issuer ∧ c.dst = g 0 ∧ c.src = g 1 ∧ c.cnt = (g 2).toNat ∧ c.pws = [g 3] ∧
        c.rows = (g 4).toNat ∧ c.dstr = (g 5).toNat / 2 ^ 32 ∧ c.sstr = (g 5).toNat % 2 ^ 32 ∧ c.swz = swz.val ∧
        c.line = (g 2).toNat) ∧
      (d.val + 5 ≤ 24 → ∀ k,
        let at_ := s.place s.cur.core s.ctag (raSpace (g 0)) (raField (g 0))
        (raSpace (g 0) = 2 ∧ ∃ c a, at_ = some (.core c a) ∧ cluOf c = k) ∨ (raSpace (g 0) = 4 ∧ ∃ a, at_ = some (.clu k a)) →
        let q := (s.clu k).notices
        let reserved := q.countP (fun c => c.own && c.iss.tag == s.ctag)
        let shared := q.countP (fun c => !c.own)
        (s.linked (cluPkg k) = true → reserved < 4 ∨ shared < 12 →
          ∃ e : Copy, exec (.notice d) s = .next (State.advance (s.modClu k (fun x => { x with notices := x.notices ++ [e] })) none) ∧
            e.kind = .notice ∧ e.iss = s.issuer ∧ e.dst = g 0 ∧ e.src = g 1 ∧ e.cnt = (g 2).toNat ∧ e.rows = 1 ∧
            e.pws = [g 4, g 3] ∧ e.port = k ∧ (e.own = true ↔ reserved < 4)) ∧
        (s.linked (cluPkg k) = true → 4 ≤ reserved → 12 ≤ shared →
          exec (.notice d) s = .next (s.modCth (fun t => { t with wait := .poll .room }))) ∧
        (s.linked (cluPkg k) = false → exec (.notice d) s = .next ((s.report s.issuer (g 0)).advance none))))

/-- R91, R95, R99, R106, R216, R217, R219, R220: the work of a copy. A streamer refuses it before any access, reported to the issuer, or
takes it (which ground is named first is the model's choice, as is XVAL of a kick over a link that is down: entry 89); an empty copy ends
with no access; then it moves chunk after chunk, at most eight in flight, none past its row or a 256-byte boundary of the destination, and
of those in flight any may move first that shares no bank with what is left of an earlier one, which is no access that behaves as ordinary
(R95, R99). A chunk is moved whole, or begun and then moved piece by piece (entries 23 and 68; where a swizzled COPY2D is split, entry 89);
its count follows its stores, the receiver's phase word before the sender's, and the last count ends the copy. A copy engine takes its
notices in order, at most four pulls at once. -/
def Obligations.CopyWork : Prop :=
  (∀ (s : State) (c : Copy) (cs : List Copy), s.copies = c :: cs → c.paused = none → c.checked = false →
    (s.linked (s.copyHome c) = true →
      (∀ v, c.refusal = some v → c.kind = .copy ∨ c.kind = .notice →
        exec (.copyStreamerRun 0 0) s = .next (State.report { s with copies := cs } c.iss v)) ∧
      (c.refusal = none → c.rows = 0 ∨ c.cnt = 0 → exec (.copyStreamerRun 0 0) s = .next { s with copies := cs }) ∧
      (c.refusal = none → c.rows ≠ 0 → c.cnt ≠ 0 → exec (.copyStreamerRun 0 0) s = .next { s with copies :=
        ({ c with checked := true, home := some (s.copyHome c) } : Copy) :: cs })) ∧
    (s.linked (s.copyHome c) = false → c.kind = .copy ∨ c.kind = .notice →
      exec (.copyStreamerRun 0 0) s = .next (State.report { s with copies := cs } c.iss c.src))) ∧
  (∀ (s t : State) (i : Nat) (c : Copy), s.copies[i]? = some c → c.paused = none → c.checked = true → c.row < c.rows →
    c.uncounted.length + c.moving.length < 8 → c.off < c.cnt → c.skip = [] → s.cur.split = false → c.moving = [] →
    let n := c.chunk c.row c.off
    n ≤ 256 ∧ c.off + n ≤ c.cnt ∧ 0 < n ∧
    (raOffset c.dst + c.row * c.dstr + c.off) / 256 = (raOffset c.dst + c.row * c.dstr + c.off + n - 1) / 256 ∧
    let c' : Copy := { c with
      uncounted := c.uncounted ++ [(n, c.pws.filter (· != 0))]
      flying := c.flying ++ [(c.row, c.off)]
      row := (if c.off + n < c.cnt then c.row else c.row + 1)
      off := (if c.off + n < c.cnt then c.off + n else 0) }
    (s.runs [] (c.move c.row c.off n) = .ok ((), t) → exec (.copyStreamerRun i 0) s = .next { t with copies := t.copies.set i c' })) ∧
  (∀ (s t : State) (i j r o n : Nat) (c : Copy), s.copies[i]? = some c → c.paused = none → c.checked = true →
    c.uncounted.length + c.moving.length < 8 → c.chunks[j]? = some (r, o, n) →
    (s.cur.split = false → s.chunkFree c j (r, o, n) = true → s.runs [] (c.move r o n) = .ok ((), t) → exec (.copyStreamerRun i j) s =
      .next { t with copies := t.copies.set i { c.taken j with
        uncounted := c.uncounted ++ [(n, c.pws.filter (· != 0))], flying := c.flying ++ [(r, o)] } }) ∧
    (s.cur.split = false → s.chunkFree c j (r, o, n) = false → 0 < j → exec (.copyStreamerRun i j) s = .next s) ∧
    (∀ x ∈ c.whole r o n, ∀ y ∈ c.earlier r o j, (s.partPlace c y).2 = true ∨ ((s.partPlace c x).1.1 = (s.partPlace c y).1.1 ∧
      (s.partPlace c x).1.2.1 = (s.partPlace c y).1.2.1 ∧ ∃ b ∈ (s.partPlace c x).1.2.2, b ∈ (s.partPlace c y).1.2.2) →
      s.chunkFree c j (r, o, n) = false) ∧
    (s.cur.split = true → c.heads r o = false → exec (.copyStreamerRun i (c.pieceCount + j)) s =
      .next { s with copies := s.copies.set i { c.taken j with moving := c.moving ++ [c.chunkAt r o n] } })) ∧
  (∀ (s t : State) (i j : Nat) (c c' : Copy), s.copies[i]? = some c → c.paused = none → c.checked = true → s.cur.split = true →
    j < c.pieceCount →
    (s.pieceFree c j = false → exec (.copyStreamerRun i j) s = .next s) ∧
    (s.pieceFree c j = true → s.runs [] (c.movePiece j) = .ok (c', t) →
      exec (.copyStreamerRun i j) s = .next { t with copies := t.copies.set i c' })) ∧
  (∀ (s t : State) (i j n : Nat) (c : Copy) (ps : List Dword), s.copies[i]? = some c → c.paused = none →
    c.uncounted[j]? = some (n, ps) →
    (s.cur.split = false → ps.foldlM (fun u p => (u.runs [] (Eng.phase c.req p n 0)).map (fun x => x.2)) s = .ok t →
      let left : Copy := { c with uncounted := c.uncounted.eraseIdx j, flying := c.flying.eraseIdx j }
      let cs := if c.rows ≤ c.row ∧ c.skip = [] ∧ c.moving = [] ∧ c.uncounted.length = 1 then t.copies.eraseIdx i
        else t.copies.set i left
      exec (.copyChunkCount i j) s = .next { t with copies := cs }) ∧
    (s.cur.split = true → ∀ p q qs, ps = p :: q :: qs → s.runs [] (Eng.phase c.req p n 0) = .ok ((), t) → exec (.copyChunkCount i j) s =
      .next { t with copies := t.copies.set i { c with uncounted := c.uncounted.set j (n, q :: qs) } })) ∧
  (∀ (s : State) (k : Nat) (c : Copy) (cs : List Copy), (s.clu k).notices = c :: cs →
    s.copies.countP (fun x => x.kind = .notice ∧ x.port = k) < 4 →
    ∃ t : State, exec (.noticePull k) s = .next t ∧ (t.clu k).notices = cs ∧ t.copies = s.copies ++ [c] ∧
      { t with copies := s.copies, clusters := s.clusters } = s)

/-- R231, R232, R235 to R243: what each matrix instruction kicks, with its registers readable and the thread's relaxed accesses performed:
the operation joins the unit's kick register with the values the thread supplied; a compute operation waits while eight entries are
held; MXSTC also waits for the earlier operations on its accumulator, those not yet taken by the unit among them (entry 33); a word
MXPROG does not accept is refused at issue; MXRCMD sends its command, a store-release, to the core its number names as it is sent, and its
thread goes on when that has arrived (R357). That the instructions run on a gateway core's unit is the model's choice (entry 95). -/
def Obligations.MatrixKicks : Prop :=
  ∀ (s : State) (acc : Fin 4) (z msk : Bool) (fmt : Option Ty) (d r t : Fin 24) (n : Fin 8) (tag : Fin 3) (tt : Ty)
    (rm : Option RMode) (count : Dword), (∀ r, s.gPending s.cth.uid r = false) → s.drained s.cth.uid = true →
    let m := (s.core s.cur.core).mx
    let g (r : Fin 24) : Dword := s.cth.g[r.val]
    let kicks (i : Instr) (args : List Dword) : Prop :=
      exec i s = .next ((s.modCore s.cur.core (fun c => { c with mx := { c.mx with kicks := c.mx.kicks ++ [s.mxOp i args] } })).advance
        none)
    let full (i : Instr) : Prop := exec i s = .next (s.modCth (fun t => { t with wait := .poll .room }))
    (s.mxOp .mxgo []).iss = s.issuer ∧ (s.mxOp .mxgo []).rm = s.cth.fctl.rm ∧ (s.mxOp .mxgo []).te = s.cth.fctl.te ∧
    (mxProgOk (g r).toNat = true → kicks (.mxprog r) [g r]) ∧
    (mxProgOk (g r).toNat = false → exec (.mxprog r) s = .next (s.trapHere 0x0D (g r))) ∧
    kicks (.mxcfg n r) [g r] ∧ kicks (.mxmask r) [g r] ∧ kicks (.mxunf r) [g r] ∧
    (m.held < 8 → kicks .mxgo [] ∧ kicks (.mma acc z fmt d r (some t) count) [g d, g r, g t] ∧
      kicks (.mma acc z fmt d r none count) [g d, g r, 0] ∧ kicks (.mxldc acc tag r) [g r] ∧ kicks (.mxzero acc) [] ∧
      (m.names acc.val = false → s.cth.deferred = [] → r.val < 23 → kicks (.mxstc acc msk d r tt rm) [g d, g r, g (r + 1)])) ∧
    (8 ≤ m.held → full .mxgo ∧ full (.mma acc z fmt d r (some t) count) ∧ full (.mxldc acc tag r) ∧ full (.mxzero acc)) ∧
    (m.names acc.val = true → full (.mxstc acc msk d r tt rm)) ∧
    (d.val + 4 ≤ 24 → ∃ c : RCmd, exec (.mxrcmd d) s = .next (State.modCth { s with rcmds := s.rcmds ++ [c] } (fun t => { t with
        wait := .mail .kick })) ∧ c.next = s.nextPc ∧ c.cap = g d ∧ c.target = g (d + 1) ∧ c.cmd = g (d + 2) ∧ c.val = g (d + 3) ∧
        c.dest = (if (g (d + 1)).toNat < 2048 then s.lcore s.ctag (pkgOf s.cur.core) (g (d + 1)).toNat else none) ∧
        c.op.iss = s.issuer ∧ c.op.remote = true)

/-- R125, R227, R232, R233, R238, R243: the unit's steps. It takes its kick register in order, a configuration into the shadow set, a
compute operation that holds an entry with a snapshot into its queue, one without an entry waits; runs the head of the queue when none
runs; and at completion frees its entry for a waiting operation, merges the flags into the issuing thread, deferring an enabled one, and
makes the phase update, or reports the refusal. MXZERO clears its accumulator. A command that its capability covers joins the target's
kick register, after the commands its thread sent before it; any other is refused to its sender; its thread goes on then. -/
def Obligations.MatrixUnit : Prop :=
  (∀ (s : State) (c : Nat) (op : MxOp) (ks : List MxOp), (s.core c).mx.kicks = op :: ks →
    (∀ n r w, op.ins = .mxcfg n r → op.args = [w] →
      ∃ t : State, exec (.matrixUnitTake c) s = .next t ∧ (t.core c).mx.kicks = ks ∧ (t.core c).mx.shadow[n.val] = w ∧
        (∀ j : Fin 8, j ≠ n → (t.core c).mx.shadow[j.val] = (s.core c).mx.shadow[j.val]) ∧ (t.core c).mx.ops = (s.core c).mx.ops) ∧
    (mxIsCompute op.ins = true → op.entry = false → exec (.matrixUnitTake c) s = .next s) ∧
    (mxIsCompute op.ins = true → op.entry = true →
      let op' : MxOp := { op with snap := some ((s.core c).mx.shadow, (s.core c).mx.unf, (s.core c).mx.mask) }
      ∃ t : State, exec (.matrixUnitTake c) s = .next t ∧ (t.core c).mx.kicks = ks ∧ (t.core c).mx.ops = (s.core c).mx.ops ++ [op'] ∧
        (t.core c).mx.shadow = (s.core c).mx.shadow)) ∧
  (∀ (s t : State) (c : Nat) (op : MxOp) (ops : List MxOp) (a : Fin 4) (x : Acc) (fl : Fl) (pw : Dword),
    (s.core c).mx.run = none → (s.core c).mx.ops = op :: ops → s.cur.split = false →
    s.runs (s.core c).mx.starting (mxCompute (mxReq c op) op (s.core c).mx.acc) = .ok ((a, x, fl, pw), t) →
    ∃ u : State, exec (.matrixOpStart c) s = .next u ∧ (u.core c).mx.ops = ops ∧ (u.core c).mx.acc[a.val] = x ∧
      ∃ r : MxRun, (u.core c).mx.run = some r ∧ r.op = op ∧ r.flags = fl ∧ r.pw = pw ∧ r.err = none) ∧
  (∀ (s : State) (r : Req) (op : MxOp) (a : Fin 4) (accs : Vector Acc 4), op.ins = .mxzero a →
    mxCompute r op accs s = .ok ((a, {}, 0, 0), s)) ∧
  (∀ (s t : State) (c : Nat) (r : MxRun), (s.core c).mx.run = some r →
    let s' := s.modCore c (fun k => { k with mx := ({ k.mx with run := none } : Mx).grant })
    (∀ v, r.err = some v → exec (.matrixOpComplete c) s = .next (s'.mxRefused c r.op v)) ∧
    (r.err = none → (s'.mxMerge c r).runs [] (Eng.phase (mxReq c r.op) r.pw 0 1) = .ok ((), t) → exec (.matrixOpComplete c) s = .next t) ∧
    (r.err = none → r.pw = 0 → exec (.matrixOpComplete c) s = .next (s'.mxMerge c r))) ∧
  (∀ (m : Mx) (o : MxOp) (os : List MxOp), m.kicks = o :: os → mxIsCompute o.ins = true → o.entry = false →
    (m.held < 8 → m.grant.kicks = { o with entry := true } :: os) ∧ (8 ≤ m.held → m.grant = m)) ∧
  (∀ (s : State) (i : Nat) (q r : RCmd), s.rcmds[i]? = some r → q ∈ s.rcmds.take i → q.op.iss.uid = r.op.iss.uid →
    exec (.mxrcmdArrival i) s = .next s) ∧
  (∀ (s : State) (r : RCmd) (rs : List RCmd) (c : Nat) (ins : Instr) (right : Nat), s.rcmds = r :: rs → r.target.toNat < 2048 →
    r.dest = some c → rcmdInstr r.cmd r.val = some (ins, right) →
    let cap := r.cap.toNat
    let covers := s.capCheck r.cap = cap % 2 ^ 32 ∧ cap / 2 ^ 60 = r.op.iss.tag ∧ (s.core c).tag.val = r.op.iss.tag ∧
      bits cap 59 49 ≤ r.target.toNat ∧ r.target.toNat ≤ bits cap 48 38 ∧ bitAt cap right = true
    let s' := State.kicked { s with rcmds := rs } r
    (∀ a n t, s.thread? a n = some t → t.uid = r.op.iss.uid → t.wait = .mail .kick →
      s'.thread? a n = some { t with pc := r.next, wait := .ready }) ∧
    (covers → ∃ t : State, exec (.mxrcmdArrival 0) s = .next t ∧ t.rcmds = rs ∧ (t.core c).mx.kicks = (s.core c).mx.kicks ++
      [({ r.op with ins := ins, entry := mxIsCompute ins && decide ((s.core c).mx.held < 8) } : MxOp)]) ∧
    (¬ covers → exec (.mxrcmdArrival 0) s = .next (s'.modUid r.op.iss.uid (fun t => { t with
      reports := t.reports ++ [{ cause := 0x0F, xpc := r.op.iss.pc, xval := r.cap }] })))) ∧
  (∀ (s : State) (r : RCmd) (rs : List RCmd), s.rcmds = r :: rs →
    let s' := State.kicked { s with rcmds := rs } r
    let turnedAway := exec (.mxrcmdArrival 0) s = .next (s'.modUid r.op.iss.uid (fun t => { t with
      reports := t.reports ++ [{ cause := 0x0F, xpc := r.op.iss.pc, xval := r.cap }] }))
    (2048 ≤ r.target.toNat → turnedAway) ∧
    (r.target.toNat < 2048 → (∃ c, r.dest = some c) → rcmdInstr r.cmd r.val = none → turnedAway) ∧
    (r.target.toNat < 2048 → r.dest = none → exec (.mxrcmdArrival 0) s =
      .next ((s'.noCore r.op.iss.tag (r.target.toNat * 2 ^ 29)).report r.op.iss r.target)))

/-- R127, R128, R226 to R230, R237, R238, R240: the arithmetic of the matrix unit. An operation that runs to its end takes its steps in
increasing order, each on the lines of its operands as the core's store holds them: line l of a tile is read under its header and swizzle,
with the scale bytes of its blocks; a line at or beyond the header's rows has elements of value 0; a virtual A is gathered from its image
(R242). A step adds to each entry the products of its row of A and its column of B: of integers modulo 2^32; of floating-point numbers
exactly, rounded once to the accumulator's format, with the special cases of R128; under a microprogram, its operations in order (R241). An
MMA runs so with the words of its thread; MXLDC loads 64 entries; MXSTC leaves its accumulator and stores 64 values, each converted from its
entry or, where the mask block hides it, −∞, and changes no other byte. -/
def Obligations.MatrixArithmetic : Prop :=
  (∀ (s t : State) (c : Nat) (op : MxOp) (j : MxJob) (unf : BitVec 256) (blk : BitVec 512) (old x : Acc) (fl : Fl),
    s.runs [] (mxRunJob (mxReq c op) op j unf blk old) = .ok ((x, fl), t) →
    let M := (s.core c).mem
    let f3 := j.f3.toNat
    let fa := f3 % 16
    let fb := f3 / 2 ^ 4 % 16
    ∃ (k la lb : Nat) (tag : Fin 3) (m : RMode),
      (if j.prog = 0 then mxPair fa fb else mxProgPair j.prog fa fb) = some (k, tag, la, lb) ∧
      mxMode op.rm (f3 / 2 ^ 8 % 8) = some m ∧
      -- the bytes and the scale bytes that step i takes of line l of a tile at T
      let tile (T z f n scales stride i l : Nat) : Option (Nat × Nat) :=
        let h := rdLE M T 8
        if l < h / 2 ^ 32 % 16 then some (tileBytes M T (h / 2 ^ 36 % 2 ^ 12) z l n i,
          if mxScaled f then rdLE M (scales + l * stride + i * mxBlocks f) (mxBlocks f) else 0)
        else none
      let lineA (i l : Nat) : Option (Nat × Nat) :=
        if j.virt then some (sumUp k (fun e => match unfoldElem (unfoldOf unf) (la / k) j.pixel l (i * k + e) with
          | some a => rdLE M a (la / k) * 2 ^ (8 * (la / k) * e)
          | none => 0), 0)
        else tile j.ta j.za fa la (f3 / 2 ^ 16 % 2 ^ 19) j.astr i l
      let lineB (i l : Nat) : Option (Nat × Nat) := tile j.tb j.zb fb lb (f3 / 2 ^ 35 % 2 ^ 19) j.bstr i l
      let start (n : Nat) : Nat := if j.zero then 0 else (mget 0 n old.c).toNat % (if tag = 0 then 2 ^ 64 else 2 ^ 32)
      let all := (List.range j.steps).foldl (fun (y : List Nat × Fl) i =>
        let r := mxStep j.prog fa fb k tag m y.1 (tab 8 (lineA i)) (tab 8 (lineB i))
        (r.1, y.2 ||| r.2)) (tab 64 start, 0)
      (j.zero = true ∨ j.steps ≠ 0 → x.tag = tag ∧ ∀ n < 64, mget 0 n x.c = BitVec.ofNat 64 (all.1.getD n 0)) ∧
      (j.zero = false → j.steps = 0 → x = { old with tag := if j.direct then old.tag else tag }) ∧
      (j.out = none → fl = all.2 ∧ SameMemory s t)) ∧
  (∀ (prog fa fb k : Nat) (tag : Fin 3) (m : RMode) (c : List Nat) (a b : List (Option (Nat × Nat))), a.length = 8 → b.length = 8 →
    let weight (f : Nat) (l : Option (Nat × Nat)) (e : Nat) : Int × Fl := match l with | some y => mxElemI f y.1 e | none => (0, 0)
    let elem (f : Nat) (l : Option (Nat × Nat)) (e : Nat) : Fp × Fl :=
      match l with | some y => mxElemF f y.1 e y.2 | none => (.fin false 0 0, 0)
    let A (n : Nat) := a.getD (n / 8) none
    let B (n : Nat) := b.getD (n % 8) none
    let r := mxStep prog fa fb k tag m c a b
    let codes (f : Option (Nat × Nat) → Option (Nat × Nat) → Nat → Fl) : Fl :=
      allFlags (List.range 8) (fun l => allFlags (List.range k) (f (a.getD l none) (b.getD l none)))
    (prog = 0 → tag = 2 →
      r.1 = tab 64 (fun n =>
        (((c.getD n 0 : Int) + ((List.range k).map (fun e => (weight fa (A n) e).1 * (weight fb (B n) e).1)).sum) % 2 ^ 32).toNat) ∧
      r.2 = codes (fun x y e => (weight fa x e).2 ||| (weight fb y e).2)) ∧
    (prog = 0 → tag ≠ 2 →
      let t : Ty := if tag = 0 then .f64 else .f32
      let x (n : Nat) : Fp := decodeF t (c.getD n 0)
      let prod (n e : Nat) : Fp × Fl := fpMul (elem fa (A n) e).1 (elem fb (B n) e).1
      let has (n : Nat) (p : Fp → Bool) : Bool := p (x n) || (List.range k).any (fun e => p (prod n e).1)
      let clash (n : Nat) : Bool := has n (· == .inf false) && has n (· == .inf true)
      let sum (n : Nat) : Nat × Fl := roundTo t m false ((List.range k).foldl (fun y e => (fpAdd m y (prod n e).1).1) (x n))
      let special (n : Nat) : Option Nat :=
        if has n Fp.isNan || clash n then some (nanF t)
        else if has n (· == .inf false) then some (infF t false)
        else if has n (· == .inf true) then some (infF t true)
        else none
      r.1 = tab 64 (fun n => (special n).getD (sum n).1) ∧
      r.2 = allFlags (List.range 64) (fun n => (if (x n).isSig then fNV else 0) ||| allFlags (List.range k) (fun e => (prod n e).2) |||
          (if clash n then fNV else 0) ||| (if special n = none then (sum n).2 else 0)) |||
        codes (fun x y e => (elem fa x e).2 ||| (elem fb y e).2)) ∧
    (prog ≠ 0 → ∀ n < 64, r.1.getD n 0 =
      (mxProgStep prog tag m (c.getD n 0) ((A n).elim 0 (fun y => y.1)) ((B n).elim 0 (fun y => y.1))).1)) ∧
  (∀ (s t : State) (c : Nat) (op : MxOp) (accs : Vector Acc 4) (acc o : Fin 4) (z : Bool) (fmt : Option Ty) (d r : Fin 24)
      (pr : Option (Fin 24)) (count pw : Dword) (x : Acc) (fl : Fl), op.ins = .mma acc z fmt d r pr count →
    s.runs [] (mxCompute (mxReq c op) op accs) = .ok ((o, x, fl, pw), t) →
    let j := mmaJob acc z fmt count op.args op.p
    let A := (op.args.getD 0 0).toNat
    let B := (op.args.getD 1 0).toNat
    let p (i : Nat) : Nat := (op.p.getD i 0).toNat
    s.runs [] (mxRunJob (mxReq c op) op j 0 0 accs[acc.val]) = .ok ((x, fl), t) ∧ o = acc ∧ pw = op.args.getD 2 0 ∧
    j.zero = z ∧ j.steps = count.toNat ∧ j.prog = 0 ∧ j.virt = false ∧ j.out = none ∧ j.direct = true ∧
    j.ta = A % 2 ^ 19 ∧ j.za = A / 2 ^ 20 % 8 ∧ j.tb = B % 2 ^ 19 ∧ j.zb = B / 2 ^ 20 % 8 ∧ j.astr = p 1 / 2 ^ 48 ∧ j.bstr = p 2 / 2 ^ 48 ∧
    (fmt = none → j.f3 = op.p.getD 0 0) ∧
    (∀ ty, fmt = some ty → j.f3.toNat = encTy ty + encTy ty * 2 ^ 4 + 7 * 2 ^ 8 + p 1 % 2 ^ 19 * 2 ^ 16 + p 2 % 2 ^ 19 * 2 ^ 35)) ∧
  (∀ (s t : State) (c : Nat) (op : MxOp) (accs : Vector Acc 4) (acc o : Fin 4) (tag : Fin 3) (r : Fin 24) (pw : Dword) (x : Acc)
      (fl : Fl), op.ins = .mxldc acc tag r → s.runs [] (mxCompute (mxReq c op) op accs) = .ok ((o, x, fl, pw), t) →
    let a := (op.args.getD 0 0).toNat
    o = acc ∧ x.tag = tag ∧ fl = 0 ∧ pw = 0 ∧ SameMemory s t ∧ a % 64 = 0 ∧
    ∀ i < 8, ∀ j < 8, (mget 0 (8 * i + j) x.c).toNat = rdLE (s.core c).mem (a + 64 * i + 8 * j) 8 % (if tag = 0 then 2 ^ 64 else 2 ^ 32)) ∧
  (∀ (s t : State) (c : Nat) (op : MxOp) (accs : Vector Acc 4) (acc o : Fin 4) (msk : Bool) (d r : Fin 24) (tt : Ty) (rm : Option RMode)
      (pw : Dword) (x : Acc) (fl : Fl), op.ins = .mxstc acc msk d r tt rm →
    s.runs [] (mxCompute (mxReq c op) op accs) = .ok ((o, x, fl, pw), t) →
    let g := (op.args.getD 1 0).toNat
    let e := tyWidth tt / 8
    let m := rm.getD op.rm
    let blk : BitVec 512 := (op.snap.map (fun y => y.2.2)).getD 0
    let P := blk.toNat % 2 ^ 32
    let R := blk.toNat / 2 ^ 32 % 2 ^ 8
    let hidden (n : Nat) : Prop :=
      let q := g / 2 ^ 20 % 16 + n / 8
      let k := g / 2 ^ 32 + n % 8
      msk = true ∧ (R ≤ q ∨ P + R ≤ k ∨ (P ≤ k ∧ blk.toNat / 2 ^ (256 + 16 * q) % 2 ^ 16 / 2 ^ (k - P) % 2 = 0))
    let old := accs[acc.val]
    let entry (n : Nat) : Nat := (mget 0 n old.c).toNat
    let value (n : Nat) : Nat × Fl :=
      if old.tag = 2 then
        let v := toSigned 32 (entry n)
        if tt = .i32 then (entry n % 2 ^ 32, 0)
        else if tt = .i8 then (((max (-128) (min 127 v)) % 2 ^ 8).toNat, if v < -128 ∨ 127 < v then fSAT else 0)
        else roundTo tt m op.sat8 (intToFp v)
      else
        let v := decodeF (if old.tag = 0 then .f64 else .f32) (entry n)
        if tt = .i32 then fpToInt true 32 m v else if tt = .i8 then fpToInt true 8 m v else roundTo tt m op.sat8 v
    o = acc ∧ x = old ∧ pw = op.args.getD 2 0 ∧
    ∃ stored : Nat → Nat, (∀ n < 64, (hidden n → stored n = infF tt true) ∧ (¬ hidden n → stored n = (value n).1)) ∧
      (∀ f : Nat → Fl, (∀ n < 64, (hidden n → f n = 0) ∧ (¬ hidden n → f n = (value n).2)) → fl = allFlags (List.range 64) f) ∧
      (∀ a, rdB (t.core c).mem a = storedByte e (tab 64 (fun n =>
        (.core c ((op.args.getD 0 0).toNat + n / 8 * (g % 2 ^ 19) + n % 8 * e), stored n))) (.core c a) (rdB (s.core c).mem a)) ∧
      (∀ c' a, c' ≠ c → rdB (t.core c').mem a = rdB (s.core c').mem a) ∧
      (∀ k a, rdB (t.clu k).mem a = rdB (s.clu k).mem a) ∧ ∀ a, rdB t.kns a = rdB s.kns a)

/-! ## Encodings and fetching (chapters 02, 07) -/

/-- R131, R134 to R147: words written out from the encoding tables of the spec, one instruction or more of each page, decode to the
instruction each stands for. -/
def Obligations.DecodesSpecWords : Prop :=
  ∀ (gw : Bool) (ws : List Half), ∀ e ∈
    ([([0x0422], .add (.g 1) (.op (.g 2))), ([0xF3FF, 0x043F], .add (.g 1) (.imm (-1))), ([0x6C7F], .movi (.g 3) (-1)),
      ([0xF414, 0x64A6], .ext (.g 5) (.g 6) .w16 true), ([0x93FF], .br (-1)), ([0xD81D], .fenceFull .sys),
      ([0xFD08, 0xF408, 0xF010, 0xB485], .ld (.g 4) { base := 5, off := 16, cls := .rlx, scope := .core, sg := 2 } .w32),
      ([0xF910, 0x0422], .fadd { ty := .f32, sc := false, mask := 0 } (.v 1) (.v 2) none),
      ([0xF908, 0xF461, 0x1822], .fma { ty := .f64, sc := true, mask := 0 } (.g 1) (.g 2) (.g 3) (some .rtz)),
      ([0xF900, 0xF405, 0xE22A], .kop (.b 1) (.k 2) .pop),
      ([0xF900, 0xB030], .vld { ty := .f64, sc := false, mask := 0 } 1 { base := 0, off := 0, cls := .ord, scope := .core, sg := 0 }),
      ([0xFA03, 0x0440], .copy 2 3), ([0xFA15, 0x2C64], .mma 1 true (some .f16) 3 4 none 0), ([0xFA01, 0x5443], .rpsplice 2 3 true),
      ([0xFA00, 0xF4C0, 0xA8E8], .callf 7 8 6), ([0xFB00, 0xF001, 0x0401], .sysc 33), ([0xFB00, 0x6822], .glaunch 1 2),
      ([0xFB00, 0x7C00], .iret)] : List (List Half × Instr)),
    decode gw (e.1 ++ ws) = .ok (e.2, e.1.length)

/-- R131, R150: decoding an instruction's words gives it back with every operand, whatever follows them; the group has at most five
words. GWTAKE is an instruction on a gateway core (R223). -/
def Obligations.DecodeEncode : Prop :=
  ∀ (i : Instr) (gw : Bool) (ws : List Half), i.wf = true → (∀ d r, i = .gwtake d r → gw = true) →
    decode gw (encode i ++ ws) = .ok (i, (encode i).length) ∧ 1 ≤ (encode i).length ∧ (encode i).length ≤ 5

/-- R131, R133, R148: what decodes is a well-formed instruction of at most five words; what does not has a word of the group, at index 0
to 4, and a reason from 1 to 12 (13 is found when a far branch executes). -/
def Obligations.DecodeAnswers : Prop :=
  ∀ (gw : Bool) (ws : List Half),
    (∀ i n, decode gw ws = .ok (i, n) → i.wf = true ∧ 1 ≤ n ∧ n ≤ 5 ∧ n ≤ ws.length) ∧
    (∀ e, decode gw ws = .error e → e.idx ≤ 4 ∧ e.idx ≤ ws.length ∧ 1 ≤ e.reason ∧ e.reason ≤ 12 ∧
      e.word = (if e.reason = 8 then 0 else ws.getD e.idx 0))

/-- R33, R148, R223: illegal groups. The zero word and the word of ones trap at their first word with reasons 6 and 5; a fifth prefix with
reason 1, a group cut off with reason 8, a reserved opcode with reason 7, GWTAKE off a gateway core with reason 7; XVAL is the word,
its index and the reason. A fetch without the right X, at or past the limit of sg0, or through an sg0 that names a core out of reach
(R35) traps with cause 0x04, 0x03 or 0x04 and XPC and XVAL at the group's address. -/
def Obligations.IllegalGroups : Prop :=
  (∀ (gw : Bool) (ws : List Half) (n : Nat) (w : Half),
    decode gw (0 :: ws) = .error { word := 0, idx := 0, reason := 6 } ∧
    decode gw (List.replicate (n + 1) 0xFFFF) = .error { word := 0xFFFF, idx := 0, reason := 5 } ∧
    (isPrefixWord w = true → decode gw ([0xF000, 0xF000, 0xF000, 0xF000, w] ++ ws) = .error { word := w, idx := 4, reason := 1 }) ∧
    (n ≤ 4 → decode gw (List.replicate n 0xF000) = .error { word := 0, idx := n, reason := 8 }) ∧
    (∀ opc ds, opc ∈ [0x0C, 0x0D, 0x0E, 0x0F, 0x20, 0x21, 0x3B] → ds < 1024 →
      decode gw (0xFB00 :: BitVec.ofNat 16 (opc * 1024 + ds) :: ws) =
        .error { word := BitVec.ofNat 16 (opc * 1024 + ds), idx := 1, reason := 7 }) ∧
    (∀ ds, ds < 1024 → decode false (0xFA00 :: BitVec.ofNat 16 (0x28 * 1024 + ds) :: ws) =
      .error { word := BitVec.ofNat 16 (0x28 * 1024 + ds), idx := 1, reason := 7 })) ∧
  (∀ (s : State) (w : Half) (k r : Nat), k < 5 → r < 256 → ∃ x : Dword,
    x.toNat = w.toNat * 65536 + k * 256 + r ∧ exec (.illegalInstruction w k r) s = .next (s.trapHere 0x01 x)) ∧
  (∀ (s : State) (c n : Nat) (t : Thread), s.thread? c n = some t →
    let g := t.sg[0]
    (g.rights.getLsbD 1 = false → ∃ u : State, s.fetch c n = .run u (.instructionFetchFault true) ∧ u.cur.pc = t.pc ∧
      u.cur.core = c ∧ u.cur.slot = n ∧ exec (.instructionFetchFault true) u = .next (u.trapHere 0x04 t.pc)) ∧
    (g.rights.getLsbD 1 = true → g.limit.toNat ≤ t.pc.toNat →
      ∃ u : State, s.fetch c n = .run u (.instructionFetchFault false) ∧ u.cur.pc = t.pc ∧
      u.cur.core = c ∧ u.cur.slot = n ∧ exec (.instructionFetchFault false) u = .next (u.trapHere 0x03 t.pc)) ∧
    (∀ sp, g.space.toNat = sp → sp = 2 ∨ sp = 4 ∨ sp = 6 → g.rights.getLsbD 1 = true → t.pc.toNat + 2 ≤ g.limit.toNat →
      (∀ l, s.place c (s.core c).tag.val sp (fieldAdd sp g.base.toNat t.pc.toNat) = some l → inReach c (some l) = false) →
      ∃ u : State, s.fetch c n = .run u (.instructionFetchFault true) ∧ u.cur.pc = t.pc ∧
        u.cur.core = c ∧ u.cur.slot = n ∧ exec (.instructionFetchFault true) u = .next (u.trapHere 0x04 t.pc)))

/-- R64, R65, R131: a step that issues from a slot runs the instruction that the bytes at its program counter stand for. The slot's thread
is at a group boundary, inside no instruction, with no report, no interrupt and no departure due and has rested; sg0 lets it fetch (through
its own core's store: entry 32); ws are the halfwords of core store from its program counter, the fetch buffer empty. Its turn is exec of
the decoded instruction on the state that names the group. When it is the slot the core picks, the step is that turn, with the slot noted as
the last to issue, one cycle later (entry 6), the waiting PHWAITs having read their words (entry 31); a turn that only finds the slot
waiting is the whole step (R65); a slot whose turn has not come does nothing (R66). -/
def Obligations.StepRunsDecoded : Prop :=
  ∀ (s : State) (c n : Nat) (ms : List Move) (t : Thread) (ws : List Half) (i : Instr),
    s.boot.halt = none → s.moves = .issue c n :: ms → s.thread? c n = some t → t.ctl = .run → (t.wait = .ready ∨ ∃ p, t.wait = .poll p) →
    s.stopDue (s.core c).tag.val = false → s.rested c n = true → s.interruptDue c n t = false → t.reports = [] → t.leave = none →
    t.fbuf = none → t.trail = [] → t.sg[0].rights.getLsbD 1 = true → s.fetchReach c t.sg[0] t.pc.toNat = true →
    t.pc.toNat + 2 * ws.length ≤ t.sg[0].limit.toNat →
    (∀ j < ws.length, rdB (s.core c).mem ((t.sg[0].base.toNat + t.pc.toNat + 2 * j) % 0x80000) = (ws.getD j 0).setWidth 8 ∧
      rdB (s.core c).mem ((t.sg[0].base.toNat + t.pc.toNat + 2 * j + 1) % 0x80000) = ((ws.getD j 0) >>> 8).setWidth 8) →
    s.inLocal c t t.pc.toNat (2 * ws.length) = true → decode (isGateway c) ws = .ok (i, ws.length) →
    let m := ({ s with moves := ms } : State).splits false
    ∃ b, let u := (m.setThread c n { t with fbuf := b }).atGroup c n ws ws.length
      m.turn c n = exec i u ∧
      (m.pick c = some n → step s = (match exec i u with
        | .next v => .next { (v.noteIssue c n).phaseReads with counter := v.counter + 1 }
        | .fault f => .fault f
        | .refused r => .refused r)) ∧
      (m.idleTurn c n (exec i u) = true → step s = bump (exec i u)) ∧
      (m.pick c ≠ some n → m.idleTurn c n (exec i u) = false → step s = bump (.next m))

/-- R64 to R66, R101: a core issues from the first eligible slot after the slot that issued last, in circular order, and a slot whose group
is found waiting is not eligible; a slot that has issued comes last in that order and is not eligible in the three cycles that follow.
An acquire that waits for its thread's replies ends by itself when they are there, without an issue turn, its result written then: the group
takes the trap of a link that is not its own by now, and waits for room (the model's reading: entry 31). With no move given, the part takes
the move of its own schedule (entry 5). -/
def Obligations.IssueOrder : Prop :=
  (∀ (s : State) (c i : Nat), i < 32 →
    let k := s.core c
    let n (j : Nat) : Nat := (k.last + 1 + j) % 32
    let eligible (m : Nat) : Prop := (∃ t, mfind m k.slots = some t ∧ t.atBoundary = true) ∧ s.rested c m = true ∧
      s.idleTurn c m (s.turn c m) = false
    (s.stopDue k.tag.val = false → eligible (n i) → (∀ j < i, ¬ eligible (n j)) → s.pick c = some (n i))) ∧
  (∀ (s u : State) (c n : Nat), (u.core c).issued = ((s.noteIssue c n).core c).issued →
    (u.rested c n = true ↔ s.counter + 4 ≤ u.counter)) ∧
  (∀ (s : State) (c n : Nat), n < 32 → ((s.noteIssue c n).core c).order.getLast? = some n) ∧
  (∀ (s : State) (c n : Nat) (t : Thread) (r : Fin 24) (x pc : Dword) (sc : Scope), s.thread? c n = some t →
    t.wait = .acquire { res := some (.g r, x), scope := sc, next := pc } → s.returned t.uid = true → t.ctl ≠ .stopReq →
    ∃ u : State, s.turn c n = .next u ∧ (u.thread c n).g[r.val] = x ∧ (u.thread c n).pc = pc ∧ (u.thread c n).wait = .ready ∧
      (sc ≠ .core → (u.clu (cluOf c)).rbuf = [])) ∧
  (∀ (s : State) (c n : Nat) (t : Thread) (o : Opnd) (x pc : Dword) (sc : Scope), s.thread? c n = some t →
    t.wait = .acquire { res := some (o, x), scope := sc, next := pc } → s.returned t.uid = true → t.ctl ≠ .stopReq →
    let m : State := { s with cur := { s.cur with core := c, slot := n, pc := t.pc } }
    (∀ cause v, writeO m o x = .error (.trap cause v) →
      s.turn c n = .next (s.takeTrap c n cause v t.pc t.pc ((pc - t.pc).toNat / 2) false)) ∧
    (∀ u p, writeO m o x = .error (.wait u p) → s.acquired c n = none)) ∧
  (∀ (s : State) (c n : Nat), s.continues c n = true → stepIssue s c n = s.turn c n) ∧
  (∀ (s : State) (m : Move), s.boot.halt = none → s.moves = [] → s.autoMove = some m → step s = bump (stepMove s m))

/-! ## Reset and the stores (chapters 02, 21, 24) -/

/-- R32, R227, R275, R289, R341, R355, R357, R359, R370, R379: the reset values the spec gives. One thread stands in the machine, in slot 0
of service core 0 at address 0, and it may issue; full/empty bits, averages, page-table roots, logical cores, owners and meters are 0,
calendars are open, interrupts enabled, a gateway core's quota 32. Where no value is given, the model's choice is that of entries 2 (a byte
nothing has written reads 0), 3 and 4. -/
def Obligations.ResetValues : Prop :=
  let z := State.reset
  (∀ c n, (z.thread? c n).isSome = true ↔ c = 2048 ∧ n = 0) ∧ (z.thread 2048 0).pc = 0 ∧ (z.thread 2048 0).atBoundary = true ∧
  isService 2048 = true ∧ z.boot.halt = none ∧ z.boot.log.length = 2 ∧ z.memoriesWf ∧
  (∀ c, (z.core c).full = [] ∧ (z.core c).ien = true ∧ (z.core c).lost = 0 ∧ (z.core c).quota = 32 ∧ (z.core c).tag = 0 ∧
    ∀ a, rdB (z.core c).mem a = 0) ∧
  (∀ k, (z.clu k).csown = 0 ∧ (∀ e, mget 0 e (z.clu k).accavg = 0)) ∧ (∀ k, (z.die k).qosctl = 0 ∧ (z.die k).migva = 0) ∧
  (∀ p, mget 0 p z.io.ptroot = 0) ∧ (∀ e, mget 0 e z.lct = 0) ∧ (∀ h, mget 0 h z.io.cal = 0) ∧
  (∀ c a i : Nat, i < 4 → ((z.core c).mx.acc.toList.getD i {}).tag = 0 ∧ mget 0 a ((z.core c).mx.acc.toList.getD i {}).c = 0)

/-- R32, R343: every store keeps its canonical form over every step: addresses strictly rising, and no byte listed that reads as an
unlisted one does (entry 2). -/
def Obligations.StepKeepsStores : Prop :=
  ∀ s t : State, s.memoriesWf → step s = .next t → t.memoriesWf

/-! ## Waiting engines, draws (chapters 14 to 16) -/

/-- R48, R106, R223, R257, R260: a waiting engine instruction. It kicks its engine, a release at system scope that hands over its operand
registers, and awaits the slot's mailbox; a thread with relaxed accesses to perform waits first. The post is read with an acquire: the
results are written together and the thread goes on, or the engine error is taken. Each form takes the registers of its own group. RPDESC
with an id above 15 and GWTAKE off a gateway core are illegal. -/
def Obligations.WaitingEngines : Prop :=
  ∀ (s : State) (d r : Fin 24) (keep : Bool) (n : Fin 4), (∀ q, s.gPending s.cth.uid q = false) →
    let k := cluOf s.cur.core
    let g (i : Nat) : Dword := s.gReg r i
    let gd : Dword := s.cth.g[d.val]
    let op (i : Instr) (a : List Dword) : EngOp := { ins := i, args := a, iss := s.issuer, next := s.nextPc }
    let kicks (i : Instr) (u : State) : Prop := exec i s = .next (u.modCth (fun t => { t with wait := .mail .engine }))
    let rope (i : Instr) (a : List Dword) : Prop := kicks i (s.modClu k (fun x => { x with ropeq := x.ropeq ++ [op i a] }))
    let gen (i : Instr) (a : List Dword) : Prop := kicks i (s.modClu k (fun x => { x with genq := x.genq ++ [op i a] }))
    let unm (i : Instr) (a : List Dword) : Prop := kicks i (s.modClu k (fun x => { x with unmq := x.unmq ++ [op i a] }))
    let forms := waitingForms (isGateway s.cur.core) d r keep n
    (s.cth.posted = none → s.drained s.cth.uid = true →
      rope (.rpcat d r) [gd, g 0] ∧ rope (.rpsplit d r) [gd, g 0] ∧ rope (.rplen d r) [g 0] ∧ rope (.rpsum d r n) [g 0] ∧
      rope (.rphold d) [gd] ∧ rope (.rpdrop d) [gd] ∧ rope (.rprefr d) [gd] ∧ (gd.toNat < 16 → rope (.rpdesc d r) [gd, g 0]) ∧
      (r.val + 2 ≤ 24 → rope (.rpfind d r) [g 0, g 1]) ∧
      (r.val + 3 ≤ 24 → rope (.rpnew d r) [g 0, g 1, g 2] ∧ rope (.rpsplice d r keep) [gd, g 0, g 1, g 2]) ∧
      (r.val + 6 ≤ 24 → rope (.rpscan d r) [g 0, g 1, g 2, g 3, g 4, g 5]) ∧
      gen (.spobs d r) [gd, g 0] ∧ gen (.spobsSet d r) [gd, g 0] ∧ gen (.spshape d r) [g 0] ∧ gen (.spshapeSet d r) [g 0] ∧
      (r.val + 4 ≤ 24 → gen (.topk d r) [g 0, g 1, g 2, g 3]) ∧ unm (.unmset d r) [gd, g 0] ∧
      (r.val + 2 ≤ 24 → unm (.unmrank d r) [gd, g 0, g 1] ∧ unm (.unmclr d r) [gd, g 0, g 1]) ∧
      (r.val + 3 ≤ 24 → unm (.unmdirty d r) [gd, g 0, g 1, g 2]) ∧
      (isGateway s.cur.core = true →
        kicks (.gwtake d r) (s.modPort (gwPort s.cur.core) (fun x => { x with gwq := x.gwq ++ [op (.gwtake d r) [g 0]] })))) ∧
    (s.cth.posted = none → 16 ≤ gd.toNat → exec (.rpdesc d r) s = .next (s.trapHere 0x01 (s.baseIllegal 10))) ∧
    (isGateway s.cur.core = false → exec (.gwtake d r) s = .next (s.trapHere 0x01 (s.baseIllegal 7))) ∧
    (s.cth.posted = none → s.drained s.cth.uid = false → gd.toNat < 16 → ∀ i ∈ forms,
      exec i s = .next (s.modCth (fun t => { t with wait := .poll .drain }))) ∧
    (∀ p, s.cth.posted = some p → s.returned s.cth.uid = true → ∀ i ∈ forms,
      let u := (s.invalidate .pkg).modCth (fun t => { t with posted := none })
      (p.err = none → p.late = none → exec i s = .next ((p.res.foldl (fun s e => writeG s e.1 e.2) u).advance none)) ∧
      (∀ v, p.err = some v → exec i s = .next (u.trapHere 0x0D v)))

/-- R48, R217, R223, R257, R275, R277: what the waiting engines post. An engine runs the operation at the head of its queue, in one step or
access by access (entry 68): each step ends it with one post, or leaves it at the head. Its results or the value that refused it go to the
slot's mailbox, where the waiting thread finds them; a thread that is being stopped takes no post. SPOBS moves the average an eighth of the
way; SPSHAPE posts the shape the average selects; RPLEN the count of its rope. The link block queue hands the oldest landed block of the
flow, or the reply of a closed flow, to the first waiter that still waits, whose GWTAKE ends then. An acceptance entry of another partition,
of none, or of an index of 256 or more is refused. The model's choices: that a rope operation refused within its step leaves memory exactly
as it was, the free list in its old order (entry 47), and that result i stands in word i of the slot's mailbox, GWTAKE's in the first (48). -/
def Obligations.EngineService : Prop :=
  (∀ (s : State) (k : Nat) (o : EngOp) (os : List EngOp), o.paused = none →
    let serves (i : Instr) (q : Cluster → List EngOp) : Prop := q (s.clu k) = o :: os → ∃ u : State, exec i s = .next u ∧
      ((q (u.clu k) = os ∧ ∃ l p, u.posts = l ++ [p] ∧ p.iss = o.iss) ∨
        ∃ o' : EngOp, q (u.clu k) = o' :: os ∧ o'.ins = o.ins ∧ o'.args = o.args ∧ o'.iss = o.iss)
    serves (.ropeEngineRun k) (fun x => x.ropeq) ∧ serves (.engineTakeOperation .gen k 0) (fun x => x.genq) ∧
      serves (.engineTakeOperation .unm k 0) (fun x => x.unmq)) ∧
  (∀ (s t : State) (k : Nat) (o : EngOp) (os : List EngOp) (out : RopeOut), (s.clu k).ropeq = o :: os → o.paused = none →
    o.poison = none → s.cur.split = false → s.runs o.trail (ropeBody k o) = .ok (out, t) →
    ∃ u : State, exec (.ropeEngineRun k) s = .next u ∧ (u.clu k).ropeq = os ∧
      u.posts = t.posts ++ [{ iss := o.iss, post := { res := out.regs, err := none, late := out.late }, handles := out.handles }]) ∧
  (∀ (s t : State) (k : Nat) (o : EngOp) (os : List EngOp) (v : Dword), (s.clu k).ropeq = o :: os → o.paused = none →
    o.poison = none → s.cur.split = false → o.trail = [] → s.runs [] (ropeBody k o) = .error (.refused t v) →
    ∃ u : State, exec (.ropeEngineRun k) s = .next u ∧ (u.clu k).ropeq = os ∧ u.kns = s.kns ∧
      u.posts = s.posts ++ [{ iss := o.iss, post := { res := [], err := some v } }]) ∧
  (∀ (s t : State) (k : Nat) (o : EngOp) (os : List EngOp) (d r : Fin 24) (h : Dword) (c : Option RopeCtx) (x : Option RTree),
    (s.clu k).ropeq = o :: os → o.paused = none → o.ins = .rplen d r → o.args = [h] → cluIdx k < 32 → o.poison = none →
    s.cur.split = false → s.runs o.trail (ropeRoot { core := o.iss.core, port := k, tag := o.iss.tag, thr := false, kind := 2
                                                     unit := cluIdx k, uid := o.iss.uid, id := 1 } none h) = .ok ((c, x), t) →
    ∃ u : State, exec (.ropeEngineRun k) s = .next u ∧ u.posts = t.posts ++
      [{ iss := o.iss, post := { res := [(d, BitVec.ofNat 64 (ropeCount x))], err := none } }]) ∧
  (∀ (s : State) (k : Nat) (o : EngOp) (os : List EngOp) (d r : Fin 24) (e x : Dword), (s.clu k).genq = o :: os → o.paused = none →
    cluIdx k < 32 → o.args = [e, x] →
    let a := (mget 0 e.toNat (s.clu k).accavg).toNat
    let posts (ok : Bool) (y : Dword) : Prop := ∃ u : State, exec (.engineTakeOperation .gen k 0) s = .next u ∧ (u.clu k).genq = os ∧
      u.posts = s.posts ++ [{ iss := o.iss, post := (if ok then { res := [(d, y)], err := none } else { res := [], err := some y }) }] ∧
      (ok = true → (mget 0 e.toNat (u.clu k).accavg).toNat = y.toNat) ∧ (ok = false → (u.clu k).accavg = (s.clu k).accavg)
    let own := e.toNat < 256 ∧ o.iss.tag ≠ 0 ∧ (mget 0 e.toNat (s.clu k).accasn).val = o.iss.tag
    (¬ own → o.ins = .spobs d r ∨ o.ins = .spobsSet d r → ∃ u : State, exec (.engineTakeOperation .gen k 0) s = .next u ∧
      (u.clu k).genq = os ∧ u.posts = s.posts ++ [{ iss := o.iss, post := { res := [], err := some e } }]) ∧
    (own → o.ins = .spobs d r → x.toNat ≤ 255 →
      ∃ y : Dword, (y.toNat : Int) = a + (((x.toNat * 256 : Nat) : Int) - a) / 8 ∧ posts true y) ∧
    (own → o.ins = .spobs d r → 255 < x.toNat → posts false x) ∧
    (own → o.ins = .spobsSet d r → x.toNat < 65536 → posts true x) ∧
    (own → o.ins = .spobsSet d r → 65536 ≤ x.toNat → posts false x)) ∧
  (∀ (s : State) (k : Nat) (o : EngOp) (os : List EngOp) (d r : Fin 24) (e : Dword), (s.clu k).genq = o :: os → o.paused = none →
    cluIdx k < 32 → o.args = [e] → o.ins = .spshape d r →
    let own := e.toNat < 256 ∧ o.iss.tag ≠ 0 ∧ (mget 0 e.toNat (s.clu k).accasn).val = o.iss.tag
    let i := min 15 ((mget 0 e.toNat (s.clu k).accavg).toNat / 64)
    let x := mget {} (16 * o.iss.tag + i) (s.clu k).shapes
    (own → x.count ≠ 0 → ∃ u : State, exec (.engineTakeOperation .gen k 0) s = .next u ∧ (u.clu k).genq = os ∧ u.posts = s.posts ++
      [{ iss := o.iss, post := { res := [(d, x.parents), (gAt d 1, x.depths), (gAt d 2, BitVec.ofNat 64 (x.count + i * 256))], err := none } }]) ∧
    (¬ own ∨ x.count = 0 → ∃ u : State, exec (.engineTakeOperation .gen k 0) s = .next u ∧ (u.clu k).genq = os ∧
      u.posts = s.posts ++ [{ iss := o.iss, post := { res := [], err := some e } }])) ∧
  (∀ (s : State) (n c m : Nat) (o : EngOp) (os : List EngOp) (d r : Fin 24) (f : Dword) (t : Thread), (s.port n).gwq = o :: os →
    o.ins = .gwtake d r → o.args = [f] →
    let fl (u : State) : Flow := mget {} (flowKey o.iss.tag f.toNat) (u.port n).flows
    let takes (v : Dword) (left : List Nat) : Prop :=
      s.findUid o.iss.uid = some (c, m) → s.thread? c m = some t → s.stopping o.iss.uid = false → s.returned o.iss.uid = true →
      ∃ u : State, exec (.engineTakeOperation .gw n 0) s = .next u ∧ (u.port n).gwq = os ∧ (fl u).ready = left ∧ u.posts = s.posts ∧
        (u.thread c m).g[d.val] = v ∧ (u.thread c m).pc = o.next ∧ (u.thread c m).wait = .ready ∧
        mget 0 (8 * m) (u.core c).mbox = v ∧ (u.clu (cluOf c)).rbuf = []
    (∀ b bs, f.toNat < 16 → (fl s).ready = b :: bs → takes (BitVec.ofNat 64 b) bs) ∧
    (f.toNat < 16 → (fl s).ready = [] → (fl s).reg.getLsbD 63 = false → takes (BitVec.ofNat 64 (2 ^ 63)) []) ∧
    (f.toNat < 16 → (fl s).ready = [] → (fl s).reg.getLsbD 63 = true → exec (.engineTakeOperation .gw n 0) s = .next s) ∧
    (16 ≤ f.toNat → takes (BitVec.allOnes 64) (fl s).ready) ∧
    (s.stopping o.iss.uid = true → exec (.engineTakeOperation .gw n 0) s = .next s)) ∧
  (∀ (s : State) (p : Post) (ps : List Post), s.posts = p :: ps → p.paused = none →
    (∀ c n t m, s.findUid p.iss.uid = some (c, n) → s.thread? c n = some t → t.uid = p.iss.uid → s.lookUid p.iss.uid = some t →
      t.ctl = .run → t.wait = .mail m →
      ∃ u : State, exec (.engineMailboxPost 0) s = .next u ∧ u.posts = ps ∧ (u.thread c n).posted = some p.post ∧
        (u.thread c n).wait = .ready ∧
        (p.post.box = true → ∀ (i : Nat) (e : Fin 24 × Dword), p.post.res[i]? = some e → mget 0 (8 * n + i) (u.core c).mbox = e.2)) ∧
    (s.stopping p.iss.uid = true → p.handles = [] → exec (.engineMailboxPost 0) s = .next { s with posts := ps }))

/-- R271 to R274: RAND and ACCEPT, their registers readable. RAND writes the four words of Philox-4x32-10 on the key and the counter, or the
two draws; a counter word above 32 bits is illegal. ACCEPT refuses an address without the right or reach, one that is not aligned,
and a count out of range; else it writes the masks of accepted and of out-of-vocabulary entries. -/
def Obligations.DrawsAndAcceptance : Prop :=
  ∀ (s : State) (d r : Fin 24), (∀ q, s.gPending s.cth.uid q = false) → d.val + 2 ≤ 24 → r.val + 3 ≤ 24 →
    let key := s.gReg r 0
    let w1 := (s.gReg r 1).toNat
    let lane := (s.gReg r 2).toNat
    let c := philox key (w1 % 2 ^ 32) (w1 / 2 ^ 32) lane
    let writes (i : Instr) (x y : Dword) : Prop := exec i s = .next ((writeGroup s d [x, y]).advance none)
    (lane < 2 ^ 32 → (∃ x y : Dword, x.toNat = c.2.1 * 2 ^ 32 + c.1 ∧ y.toNat = c.2.2.2 * 2 ^ 32 + c.2.2.1 ∧ writes (.rand d r false) x y) ∧
      ∃ x y : Dword, writes (.rand d r true) x y ∧ fpEq (decodeF .f32 x.toNat) (.fin false (c.1 / 256) (-24)) = true ∧
        fpEq (decodeF .f32 y.toNat) (.fin false (c.2.1 / 256) (-24)) = true) ∧
    (2 ^ 32 ≤ lane → ∀ u, exec (.rand d r u) s = .next (s.trapHere 0x01 (s.baseIllegal 10))) ∧
    (let a := s.gReg r 0
     let seed := s.gReg r 1
     let space := raSpace a
     let reach := inReach s.cur.core (s.place s.cur.core s.ctag space (raField a))
     (space < 1 ∨ 5 < space ∨ raRights a &&& 8 = 0 ∨ reach = false → exec (.accept d r) s = .next (s.trapHere 0x04 a)) ∧
     (1 ≤ space → space ≤ 5 → raRights a &&& 8 ≠ 0 → reach = true →
       (a.toNat % 32 ≠ 0 → exec (.accept d r) s = .next (s.trapHere 0x05 a)) ∧
       (a.toNat % 32 = 0 → s.cur.split = false → s.cth.trail = [] → ∀ s1 s2 h es, s.viaAddress a 32 .rd a = .ok (s1, h) →
         (1 ≤ h % 32 → h % 32 ≤ 16 → h / 32 % 2 ^ 27 = 0 → acceptFrom viaWhole seed a h (h % 32) 0 s1 = .ok (s2, es) →
           ∃ x y : Dword, exec (.accept d r) s = .next ((writeGroup s2 d [x, y]).advance none) ∧
             ∀ i < 64, x.getLsbD i = (es.getD i (false, false)).1 ∧ y.getLsbD i = (es.getD i (false, false)).2) ∧
         (h % 32 = 0 ∨ 16 < h % 32 ∨ h / 32 % 2 ^ 27 ≠ 0 → exec (.accept d r) s = .next ((s.keepLog s1).trapHere 0x0D a)))))

/-! ## Traps and the thread's own instructions (chapters 08, 20) -/

/-- R173, R167, R168, R315: BRK raises breakpoint with its code; and taking a trap. XCAUSE, XVAL and XPC are written with the group, its
length and df, and no other register. A flag or narrow-code trap goes to the thread's handler, when there is one and none is running; a
breakpoint or watchpoint halts the thread for an attached debugger; every other cause, and these without a handler or a debugger, stops the
thread and faults its node; a handler that lies in no segment of a travel-mode thread raises segment escape (R85). (That XSTAT names the
group at every trap is the model's reading: entry 11.) -/
def Obligations.TrapEntry : Prop :=
  (∀ (s : State) (code : Dword), exec (.brk code) s =
    .next (s.takeTrap s.cur.core s.cur.slot 0x08 code s.cur.pc s.cur.pc s.cur.glen false)) ∧
  (∀ (s : State) (c n cause glen : Nat) (t : Thread) (xval xpc pc : Dword) (df : Bool), s.thread? c n = some t → isGateway c = false →
    cause < 256 → glen < 8 → pc.toNat < 2 ^ 19 →
    let u := s.takeTrap c n cause xval xpc pc glen df
    let flag := cause = 6 ∨ cause = 7
    let held := (cause = 8 ∨ cause = 9) ∧ s.attached (s.core c).tag.val = true
    ∃ x : XStat, x.resume.toNat = pc.toNat ∧ x.glen.toNat = glen ∧ x.df = df ∧ x.tr = t.xstat.tr ∧
      (let saved : Thread := { t with xcause := BitVec.ofNat 8 cause, xval := xval, xpc := xpc, xstat := x, wait := .ready, poisoned := none,
                                        trail := [] }
       let escapes := ∃ m, s.segMap? c t = some m ∧ m.segOf t.handler.toNat = none
       (∀ c' n', (c' ≠ c ∨ n' ≠ n) → u.thread? c' n' = s.thread? c' n') ∧
       (flag → t.handler ≠ 0 → t.xstat.h = false → escapes → x.h = false ∧ u.thread? c n = some { saved with
         xcause := 0x0A, xval := t.handler, ctl := .stopReq }) ∧
       (flag → t.handler ≠ 0 → t.xstat.h = false → ¬ escapes → s.inLocal c t t.handler.toNat 2 = true →
         x.h = true ∧ u.thread? c n = some { saved with pc := t.handler, leave := none } ∧ OnlySlots s u) ∧
       (held → x.h = t.xstat.h ∧ OnlySlots s u ∧ u.thread? c n = some { saved with
         ctl := .haltReq .debug, pc := if cause = 8 then pc + BitVec.ofNat 64 (2 * glen) else pc }) ∧
       ((flag ∧ (t.handler = 0 ∨ t.xstat.h = true)) ∨ (¬ flag ∧ ¬ held) →
         x.h = t.xstat.h ∧ u.thread? c n = some { saved with ctl := .stopReq } ∧
         (∀ c', { u.core c' with slots := (s.core c').slots } = s.core c') ∧ { u with cores := s.cores, nfaults := s.nfaults } = s ∧
         u.nfaults = s.nfaults ++ (match t.node with
           | some nid => [{ node := nid, attempt := t.attempt, cause := cause, fxpc := xpc, fval := xval, fthr := some t.tid }]
           | none => []))))

/-- R169 to R171, R173, R174, R176: BRK, TRAPRET, GETX, SETTH, GFAIL and SEGNAR, with their registers readable. -/
def Obligations.TrapInstructions : Prop :=
  ∀ (s : State) (d r : Fin 24) (sg : Fin 8) (code : Dword), s.readable [d, r] →
    let t := s.cth
    let gd : Dword := t.g[d.val]
    let gr : Dword := t.g[r.val]
    exec (.brk code) s = .next (s.trapHere 0x08 code) ∧
    (t.xstat.h = false → ∀ k, exec (.trapret k) s = .next (s.trapHere 0x01 (s.baseIllegal 10))) ∧
    (t.xstat.h = true → ∀ k : Bool, ∃ p : Dword,
      p.toNat = t.xstat.resume.toNat + (if k then 2 * t.xstat.glen.toNat else 0) ∧
      (s.inLocal s.cur.core t p.toNat 2 = true → exec (.trapret k) s =
        .next ((s.modCth (fun t => { t with xstat := { t.xstat with h := false }, leave := none })).advance (some p)))) ∧
    (∃ x3 : Dword, exec (.getx d 0) s = .next ((writeG s d (t.xcause.setWidth 64)).advance none) ∧
      exec (.getx d 1) s = .next ((writeG s d t.xval).advance none) ∧ exec (.getx d 2) s = .next ((writeG s d t.xpc).advance none) ∧
      exec (.getx d 3) s = .next ((writeG s d x3).advance none) ∧
      x3.toNat = t.xstat.resume.toNat * 2 ^ 32 + t.xstat.glen.toNat * 16 + (if t.xstat.df then 8 else 0) + (if t.xstat.h then 4 else 0) +
        (if t.xstat.tr then 2 else 0) + (if isService s.cur.core then 1 else 0)) ∧
    (gr.getLsbD 0 = true → exec (.setth r) s = .next (s.trapHere 0x05 gr)) ∧
    (gr.getLsbD 0 = false → 0x40000 ≤ gr.toNat → exec (.setth r) s = .next (s.trapHere 0x03 gr)) ∧
    (gr.getLsbD 0 = false → gr.toNat < 0x40000 →
      exec (.setth r) s = .next ((s.modCth (fun t => { t with handler := gr })).advance none)) ∧
    (s.drained t.uid = true → exec (.gfail d) s = .next (s.stopThread s.cur.core s.cur.slot 0x11 s.cur.pc gd)) ∧
    (s.drained t.uid = false → exec (.gfail d) s = .next (s.modCth (fun t => { t with wait := .poll .drain }))) ∧
    (let g := t.sg[sg.val]
     let off := gd
     let nl := gr.toNat % 2 ^ 40
     let zero := gr.toNat / 2 ^ 40 % 2 ^ 20 = 0
     (¬ zero → exec (.segnar sg d r) s = .next (s.trapHere 0x03 gr)) ∧
     (zero → g.limit.toNat < off.toNat + nl ∨ (sg = 0 ∧ off ≠ 0) → exec (.segnar sg d r) s = .next (s.trapHere 0x03 off)) ∧
     (zero → off.toNat + nl ≤ g.limit.toNat → (sg = 0 → off = 0) → ∃ x : Seg,
       exec (.segnar sg d r) s = .next ((s.modCth (fun t => { t with sg := vset t.sg sg x })).advance none) ∧ x.space = g.space ∧
       x.limit.toNat = nl ∧ (∀ i < 4, x.rights.getLsbD i = (g.rights.getLsbD i && gr.getLsbD (60 + i))) ∧
       x.base.toNat = fieldAdd g.space.toNat g.base.toNat off.toNat % 2 ^ 56))

/-- R60, R62, R172, R175, R177, R178, R292, R304, R370: SPAWN, QUIT, SYSC, GSIGNAL, CHKPT, YIELD and WAKE, with their registers readable and
the thread's relaxed accesses performed and returned. SYSC writes its request into the slot's mailbox and posts a record of kind 8; SPAWN on
a gateway core answers −3; a GSIGNAL waits behind an event of its graph that has begun. That SPAWN at a core of the table that carries
another tag answers −3 is the model's choice (entry 82), as are that GSIGNAL by a thread of no node is answered 2 (entry 87), that QUIT
takes several deferred traps as one (entry 66) and that YIELD clears the wake bit before its acquire waits (entry 31). GSIGNAL adds its
token, awaits the scheduler's answer in the slot's mailbox and then takes it. -/
def Obligations.ThreadInstructions : Prop :=
  (∀ (s : State), s.cth.wake = true → s.returned s.cth.uid = false → exec .yield s = .next ((s.modCth (fun t => { t with
    wake := false })).modCth (fun t => { t with wait := .acquire { res := none, scope := .sys, next := s.nextPc }, poisoned := none }))) ∧
  ∀ (s : State) (d r e : Fin 24) (code : Dword), s.issuing → (∀ q, s.gPending s.cth.uid q = false) → s.drained s.cth.uid = true →
    s.returned s.cth.uid = true → r.val + 4 ≤ 24 →
    let t := s.cth
    let n := t.g[d.val]
    let pc := t.g[e.val]
    let c := s.cur.core
    let target := if n.toNat < 2048 then s.lcore s.ctag (pkgOf c) n.toNat else none
    let named := ∃ k, target = some k
    let spawn := exec (.spawn d r e) s
    -- SPAWN
    (t.posted = none →
      (pc.getLsbD 0 = true → spawn = .next (s.trapHere 0x05 pc)) ∧
      (pc.getLsbD 0 = false → 0x40000 ≤ pc.toNat → spawn = .next (s.trapHere 0x03 pc)) ∧
      (pc.getLsbD 0 = false → pc.toNat < 0x40000 →
        (n ≠ BitVec.allOnes 64 → ¬ named → spawn = .next ((writeG s d (BitVec.ofInt 64 (-3))).advance none)) ∧
        (isGateway c = false → n = BitVec.allOnes 64 ∨ named → ∃ q : SpawnReq,
          spawn = .next (State.modCth { s with spawns := s.spawns ++ [q] } (fun t => { t with wait := .mail .spawn })) ∧
          q.iss = s.issuer ∧ q.d = d ∧ (n = BitVec.allOnes 64 → q.target = none) ∧ (n ≠ BitVec.allOnes 64 → q.target = target) ∧
          q.child.pc = pc ∧ (∀ i < 4, q.child.g.toList.getD i 0 = s.gReg r i) ∧ (∀ i, 4 ≤ i → i < 24 → q.child.g.toList.getD i 0 = 0) ∧
          q.child.sg = t.sg ∧ q.child.p = t.p ∧ q.child.node = t.node ∧ q.child.attempt = t.attempt ∧ q.child.lvIdx = t.lvIdx ∧
          q.child.lvExt = t.lvExt ∧ q.child.v = Vector.replicate 8 0 ∧ q.child.fbuf = none) ∧
        (isGateway c = true → spawn = .next ((writeG s d (BitVec.ofInt 64 (-3))).advance none)))) ∧
    (∀ p x, t.posted = some p → p.res = [(d, x)] →
      spawn = .next ((writeG (s.modCth (fun t => { t with posted := none })) d x).advance none)) ∧
    -- QUIT
    (s.engineBusy t.uid = true → exec .quit s = .next (s.modCth (fun t => { t with wait := .poll .drain }))) ∧
    (s.engineBusy t.uid = false → t.deferred = [] → ∃ u : State, exec .quit s = .next u ∧ u.thread? c s.cur.slot = none ∧
      (∀ c' n', (c' ≠ c ∨ n' ≠ s.cur.slot) → u.thread? c' n' = s.thread? c' n') ∧
      (∀ nid, t.node = some nid → (u.core c).hasNode nid = false → ∀ k ∈ (u.core c).claims, k.node ≠ nid)) ∧
    (s.engineBusy t.uid = false → ∀ q qs, t.deferred = q :: qs → exec .quit s =
      .next ((s.modCth (fun t => { t with deferred := [] })).takeTrap c s.cur.slot
        (if (q :: qs).any (fun x => x.flags.getLsbD 5) then 7 else 6) 1 q.xpc s.cur.pc s.cur.glen true)) ∧
    -- SYSC
    (t.sysc = .none → ∃ u : State, exec (.sysc code) s = .next u ∧ u.cth.sysc = .asked ∧ u.cth.wait = .mail .sysc ∧ u.cth.pc = t.pc ∧
      (let w (i : Nat) : Dword := mget 0 (8 * s.cur.slot + i) (u.core c).mbox
       (w 0).toNat = code.toNat % 2 ^ 35 ∧ (w 1).toNat = t.tid % 2 ^ 40 + t.attempt % 16 * 2 ^ 40 ∧
       (∀ nid, t.node = some nid → (w 2).toNat = nid / 4096 % 2 ^ 32 + nid % 4096 * 2 ^ 32) ∧ w 3 = 0 ∧
       ∀ i < 4, w (4 + i) = t.g.toList.getD i 0) ∧
      (s.io.intq.length < 1024 → ∃ x : Dword, u.io.intq = s.io.intq ++ [x] ∧
        x.toNat = 8 * 2 ^ 56 + s.ctag % 16 * 2 ^ 52 + slotAddr c s.cur.slot % 2 ^ 52)) ∧
    (t.sysc = .asked → exec (.sysc code) s = .next (s.modCth (fun t => { t with wait := .mail .sysc }))) ∧
    (∀ w0 w1, t.sysc = .answered w0 w1 → exec (.sysc code) s =
      .next ((writeG (writeG ((s.invalidate .sys).modCth (fun t => { t with sysc := .none })) 0 w0) 1 w1).advance none)) ∧
    -- GSIGNAL
    (let asks (u : State) (x : Dword) : Prop :=
       exec (.gsignal d) s = .next ((u.signalled d x).modCth (fun t => { t with wait := .mail .signal }))
     t.posted = none → (s.posts.any (fun p => p.iss.uid == t.uid)) = false →
      (t.node.bind (fun nid => s.graphOf (nid / 4096)) = none → asks s 2) ∧
      (∀ nid gk g, t.node = some nid → s.graphOf (nid / 4096) = some (gk, g) →
        (g.nodes.length ≤ n.toNat → asks s 2) ∧
        (n.toNat < g.nodes.length → s.graphBusy gk (.engineMailboxPost t.uid) = false →
          ∀ b u, s.flow (.engineMailboxPost t.uid) (Eng.token gk n.toNat) (some gk) false = .done u b → asks u (if b then 0 else 1)) ∧
        (n.toNat < g.nodes.length → s.graphBusy gk (.engineMailboxPost t.uid) = true →
          exec (.gsignal d) s = .next (s.modCth (fun t => { t with wait := .poll .hold }))))) ∧
    (∀ p x, t.posted = some p → p.res = [(d, x)] →
      exec (.gsignal d) s = .next ((writeG (s.modCth (fun t => { t with posted := none })) d x).advance none)) ∧
    -- CHKPT
    (let listed := ∃ l, s.launchOf t.node = some l ∧ l.chk.any (fun x => x.number == code.toNat) = true
     (s.stopPending s.ctag = false ∨ ¬ listed → exec (.chkpt code) s = .next (s.advance none)) ∧
     (s.stopPending s.ctag = true → listed → s.engineBusy t.uid = false → exec (.chkpt code) s =
       .next ((s.modCth (fun t => { t with ctl := .halted .checkpoint, chk := some code.toNat })).advance none))) ∧
    -- YIELD and WAKE
    (t.wake = true → exec .yield s = .next (((s.modCth (fun t => { t with wake := false })).invalidate .sys).advance none)) ∧
    (t.wake = false → exec .yield s = .next (s.modCth (fun t => { t with wait := .poll .yield }))) ∧
    exec (.wake d) s =
      .next (State.advance { s with wakes := s.wakes ++ [{ node := t.node, attempt := t.attempt, tid := n.toNat }] } none)

/-- R57, R60, R178, R292, R317: the device's steps for threads. A slot allocator answers −1 with no free slot, −2 at the quota, else places
the child in the lowest free slot under the node's next id and replies, writing no mailbox; a request to a core whose tag has changed since
its table named it is dropped there as a partition violation and answered −3, the model's choice (entry 91); a placed thread starts when its
image is in place; a stopping thread leaves its slot once its accesses and engine operations are done; a wake sets its target's bit; the
service's reply ends a SYSC. -/
def Obligations.ThreadEvents : Prop :=
  (∀ (s : State) (c : Nat) (t : Thread),
    ((∀ n < 32, (s.thread? c n).isSome = true) → s.judge c t = .error (-1)) ∧
    (∀ n, s.judge c t = .ok n → n < 32 ∧ s.thread? c n = none ∧ (∀ m < n, (s.thread? c m).isSome = true) ∧
      (s.core c).slots.length < (s.core c).quota) ∧
    (∀ n < 32, s.thread? c n = none → s.spawnConflict c t = false → s.nodeStopped t = false →
      (s.core c).quota ≤ (s.core c).slots.length → s.judge c t = .error (-2))) ∧
  (∀ (s : State) (q : SpawnReq) (qs : List SpawnReq) (c n nid gk i a b : Nat) (nd : Node) (p : Thread), s.spawns = q :: qs →
    s.allocate q = .ok (c, n) → q.child.node = some nid → s.nodeOf nid = some (gk, i, nd) → s.thread? a b = some p →
    p.uid = q.iss.uid → (a, b) ≠ (c, n) → s.spawnEjected q = none →
    ∃ (u : State) (t : Thread), exec (.slotAllocate 0) s = .next u ∧ u.spawns = qs ∧ u.thread? c n = some t ∧ t.pc = q.child.pc ∧
      t.g = q.child.g ∧ t.sg = q.child.sg ∧ t.tid = nd.nextTid ∧
      (u.thread a b).posted = some { res := [(q.d, BitVec.ofNat 64 nd.nextTid)], err := none, box := false } ∧
      (u.core a).mbox = (s.core a).mbox) ∧
  (∀ (s : State) (q : SpawnReq) (qs : List SpawnReq) (e : Int) (a b : Nat) (p : Thread), s.spawns = q :: qs →
    s.spawnEjected q = none → s.allocate q = .error e → s.thread? a b = some p → p.uid = q.iss.uid →
    ∃ u : State, exec (.slotAllocate 0) s = .next u ∧ u.spawns = qs ∧
      (u.thread a b).posted = some { res := [(q.d, BitVec.ofInt 64 e)], err := none, box := false } ∧
      { u with cores := s.cores, spawns := s.spawns, clusters := s.clusters, pkts := s.pkts } = s) ∧
  (∀ (s : State) (q : SpawnReq) (qs : List SpawnReq) (k a b : Nat) (p : Thread), s.spawns = q :: qs → q.target = some k →
    q.iss.tag ≠ 0 → (s.core k).tag.val ≠ q.iss.tag → s.thread? a b = some p → p.uid = q.iss.uid →
    ∃ u : State, exec (.slotAllocate 0) s = .next u ∧ u.spawns = qs ∧
      (u.thread a b).posted = some { res := [(q.d, BitVec.ofInt 64 (-3))], err := none, box := false } ∧
      (∀ c n, (u.thread? c n).isSome = (s.thread? c n).isSome) ∧
      u.io = (State.violate { s with spawns := qs } q.iss.tag 0 (s.core k).tag.val (idxOf k) 0).io) ∧
  (∀ (s : State) (c n : Nat) (t : Thread), s.thread? c n = some t →
    (t.wait = .starting → s.imageReady c t = true → ∃ u : State, exec (.threadStart c n) s = .next u ∧ OnlySlots s u ∧
      (u.thread c n).wait = .ready ∧ (u.thread c n).fbuf = none ∧ (u.thread c n).pc = t.pc ∧ (u.thread c n).g = t.g) ∧
    (t.ctl = .stopReq → s.drained t.uid = true → s.engineBusy t.uid = false → ∃ u : State, exec (.threadStop c n) s = .next u ∧
      u.thread? c n = none ∧ (∀ c' n', (c' ≠ c ∨ n' ≠ n) → u.thread? c' n' = s.thread? c' n') ∧ u.accesses t.uid = [])) ∧
  (∀ (s : State) (m : WakeMsg) (ms : List WakeMsg), s.wakes = m :: ms →
    (∀ e ∈ s.clusters, ∀ p ∈ e.2.places, ¬ (p.2.ctx.node.isSome = true ∧ p.2.ctx.node = m.node ∧ p.2.ctx.attempt = m.attempt ∧
      p.2.ctx.tid = m.tid)) →
    ∃ u : State, exec (.wakeArrival 0) s = .next u ∧ u.wakes = ms ∧ ∀ c n t, s.thread? c n = some t →
      u.thread? c n = some { t with wake := t.wake || (t.node.isSome && t.node == m.node && t.attempt == m.attempt && t.tid == m.tid) }) ∧
  (∀ (s : State) (c n : Nat) (t : Thread) (x : Dword), s.thread? c n = some t → t.sysc = .asked → t.wait = .mail .sysc →
    ∃ u : State, exec (.scrplReplyWrite c n x) s = .next u ∧
      u.thread? c n = some { t with sysc := .answered (mget 0 n (s.core c).scrpl) x, wait := .ready } ∧
      mget 0 (8 * n) (u.core c).mbox = mget 0 n (s.core c).scrpl ∧ mget 0 (8 * n + 1) (u.core c).mbox = x) ∧
  -- a thread that comes back from the granary finds the reply that came meanwhile in its slot's mailbox
  (∀ (s : State) (c m : Nat) (t : Thread) (w0 w1 : Dword), let u := s.loadThread c m t
    u.thread? c m = some t ∧ (∀ c' n', (c' ≠ c ∨ n' ≠ m) → u.thread? c' n' = s.thread? c' n') ∧
    (t.sysc = .answered w0 w1 → mget 0 (8 * m) (u.core c).mbox = w0 ∧ mget 0 (8 * m + 1) (u.core c).mbox = w1)) ∧
  -- a wake or a halt held while a context was away from its slot is taken where it lands or stays (R82, R178)
  (∀ (s : State) (c n : Nat) (t : Thread), s.thread? c n = some t → ∃ x, (s.stays c n).thread? c n = some x ∧ x.xstat.tr = false ∧
    x.wake = (t.wake || t.heldWake) ∧ x.heldWake = false ∧ x.heldHalt = false ∧ x.leave = none ∧ x.g = t.g ∧ x.pc = t.pc ∧
    (t.heldHalt = true → t.ctl = .run → x.ctl = .haltReq .debug))

/-! ## Travelling threads and saved contexts (chapters 04, 20) -/

/-- R72 to R75, R77, R78, R163: BRF and CALLF, with their registers readable. A live mask above 40 bits, an odd target and a target in no
segment are refused in this order; outside travel mode or inside the local segment the branch is a jump; else the thread leaves its slot for
the holder that is chosen, with a place reserved in the granary of the cluster where its group stands, carrying the live registers and
zeros, CALLF's link among them. The model's choices (entry 84), where R73 speaks of the thread's own cluster: a thread whose cluster holds
no map takes that of another cluster (segMap?), and the place is reserved where its group stands (home). -/
def Obligations.FarBranches : Prop :=
  ∀ (s : State) (d r l : Fin 24), s.issuing → s.readable [r, l] →
    let t := s.cth
    let c := s.cur.core
    let tgt := t.g[r.val]
    let live := t.g[l.val]
    let brf := exec (.brf r l) s
    let callf := exec (.callf d r l) s
    let both (u : State) : Prop := brf = .next u ∧ callf = .next u
    let jumps : Prop := brf = .next (s.advance (some tgt)) ∧ callf = .next ((writeG s d s.nextPc).advance (some tgt))
    (2 ^ 40 ≤ live.toNat → both (s.trapHere 0x01 (s.baseIllegal 13))) ∧
    (live.toNat < 2 ^ 40 → tgt.getLsbD 0 = true → both (s.trapHere 0x05 tgt)) ∧
    (live.toNat < 2 ^ 40 → tgt.getLsbD 0 = false →
      (s.segMap? c t = none → jumps) ∧
      (∀ m, s.segMap? c t = some m →
        (m.segOf tgt.toNat = none → both (s.trapHere 0x0A tgt)) ∧
        (∀ j e, m.segOf tgt.toNat = some (j, e) → (s.localId c t j = true → jumps) ∧
          (s.localId c t j = false → t.deferred = [] →
            (s.drained t.uid = false → both (s.modCth (fun t => { t with wait := .poll .drain }))) ∧
            (s.drained t.uid = true → s.returned t.uid = true → s.engineBusy t.uid = false →
              (∀ place h, s.freePlace (m.home c) s.ctag = some place → s.choose m e t.tid = some h →
                ∀ link : Bool, ∃ (u : State) (x : Thread), (if link then callf else brf) = .next u ∧
                  u.thread? c s.cur.slot = none ∧ u.pkts = s.pkts ++ [{ ctx := x, dest := h }] ∧
                  (u.clu (m.home c)).reserved = (s.clu (m.home c)).reserved ++ [(s.ctag, place, t.uid)] ∧
                  x.pc = tgt ∧ x.xstat.tr = true ∧ x.sg = t.sg ∧ x.p = t.p ∧ x.fflg = t.fflg ∧ x.fctl = t.fctl ∧ x.tid = t.tid ∧
                  (∀ i : Fin 24, x.g[i.val] = if link = true ∧ i = d then s.nextPc else if live.getLsbD i.val then t.g[i.val] else 0) ∧
                  (∀ i : Fin 8, x.v[i.val] = (if live.getLsbD (24 + i.val) then t.v[i.val] else 0) ∧
                    x.k[i.val] = (if live.getLsbD (32 + i.val) then t.k[i.val] else 0))) ∧
              (s.freePlace (m.home c) s.ctag = none → ∃ u : State, brf = .next u ∧ u.cth.wait = .poll .granary ∧
                (u.thread? c s.cur.slot).isSome = true))))))

/-- R76 to R78, R82, R88, R321 to R323: a packet lands in the lowest free slot, in the arrival queue, or keeps its place in the granary; the
head of an arrival queue lands as a slot frees; a granary context enters the queue; a wait of 65,536 cycles posts one notice; a holder's
depth is advertised; an image is sealed when its thread's engine operations have finished, and written to its place; what waits for a core
that has lost its segment is redirected, wherever it stands. That an arrival with a slot free still queues behind others is the model's
choice (entry 38), as are that a wake bit travels and lands with its thread (entry 22) and that a context of the arrival queue is redirected
only once a granary place is free for it (entry 39), that a packet whose granary cache is full and cannot be cleared stays on its way and
asks for room, where R77 lets no packet wait (entry 88), and that a descriptor which has to wait is written later (entry 37). -/
def Obligations.TravelAndSaving : Prop :=
  (∀ (s : State) (q : Packet) (qs : List Packet), s.pkts = q :: qs → s.holds q.dest q.ctx = true → s.taggedFor q.dest = [] →
    (∀ n, (s.core q.dest).arrq = [] → (s.core q.dest).freeSlot = some n → ∃ u : State, exec (.travelArrival 0) s = .next u ∧
      u.pkts = qs ∧ u.thread? q.dest n = some (q.ctx.landed (u.imageReady q.dest q.ctx)) ∧ u.kns = s.kns) ∧
    ((s.core q.dest).arrq ≠ [] ∨ (s.core q.dest).freeSlot = none → (s.core q.dest).arrq.length < 16 →
      ∃ u : State, exec (.travelArrival 0) s = .next u ∧ u.pkts = qs ∧ (u.core q.dest).arrq = (s.core q.dest).arrq ++ [q.ctx])) ∧
  (∀ (s : State) (q : Packet) (qs : List Packet) (p n : Nat), s.pkts = q :: qs → s.holds q.dest q.ctx = true →
    16 ≤ (s.core q.dest).arrq.length ∨ s.taggedFor q.dest ≠ [] → s.placeOf q.dest q.ctx.uid = some (p, n) →
    let k := cluOf q.dest
    ∃ v : Saved, v.ctx = q.ctx ∧ v.core = q.dest ∧ v.part = p ∧ v.kind = 3 ∧ v.sealed = true ∧ v.written = false ∧
      (s.mayStore k n v = true → exec (.travelArrival 0) s =
        .next ((({ s with pkts := qs } : State).modClu k (fun y => y.unreserve q.ctx.uid)).storePlace k n v)) ∧
      (s.mayStore k n v = false → exec (.travelArrival 0) s = .next (s.askRoom k n v))) ∧
  (∀ (s : State) (c n : Nat) (t : Thread) (ts : List Thread), (s.core c).arrq = t :: ts → s.holds c t = true →
    s.redirected c = none → (s.core c).freeSlot = some n →
    ∃ u : State, exec (.arrivalQueueLand c) s = .next u ∧ (u.core c).arrq = ts ∧
      u.thread? c n = some (t.landed (u.imageReady c t)) ∧ { u with cores := s.cores } = s) ∧
  (∀ (t : Thread) (ready : Bool), let x := t.landed ready
    x.xstat.tr = false ∧ x.wake = (t.wake || t.heldWake) ∧ x.g = t.g ∧ x.v = t.v ∧ x.k = t.k ∧ x.pc = t.pc ∧ x.heldWake = false ∧
    x.wait = (if ready then .ready else .starting)) ∧
  -- a context whose core has lost its segment is redirected, wherever it stands (R88)
  (∀ (s : State) (c : Nat),
    ((∃ t ∈ (s.core c).arrq, s.holds c t = false ∧ (s.rechoose c t).isSome = true ∧ (s.placeOf c t.uid).isSome = true) →
      (s.redirected c).isSome = true) ∧
    (∀ i t h p n, s.redirected c = some (i, t, h, p, n) → (s.core c).arrq[i]? = some t ∧ s.holds c t = false ∧
      s.rechoose c t = some h ∧ s.placeOf c t.uid = some (p, n) ∧ ∃ u : State, exec (.arrivalQueueLand c) s = .next u ∧
        (u.core c).arrq = (s.core c).arrq.eraseIdx i ∧ u.pkts = s.pkts ++ [{ ctx := t, dest := h }] ∧
        (p, n, t.uid) ∈ (u.clu (cluOf c)).reserved ∧ { u with cores := s.cores, clusters := s.clusters, pkts := s.pkts } = s) ∧
    ((∃ e ∈ s.taggedFor c, s.holds c e.2.ctx = false ∧ (s.rechoose c e.2.ctx).isSome = true) → (s.redirectedPlace c).isSome = true) ∧
    (∀ key v h, s.redirectedPlace c = some (key, v, h) → (key, v) ∈ s.taggedFor c ∧ s.holds c v.ctx = false ∧
      s.rechoose c v.ctx = some h ∧ ∃ u : State, exec (.granaryToArrivalQueue c) s = .next u ∧
        u.pkts = (s.freePlaceAt (cluOf c) (key / 2 ^ 32) (key % 2 ^ 32)).pkts ++ [{ ctx := v.ctx, dest := h }] ∧
        (v.part, key % 2 ^ 32, v.ctx.uid) ∈ (u.clu (cluOf c)).reserved)) ∧
  (∀ (s : State) (c key : Nat) (v : Saved), s.redirectedPlace c = none → s.oldestFor c = some (key, v) → s.holds c v.ctx = true →
    (s.core c).arrq.length < 16 →
    exec (.granaryToArrivalQueue c) s = .next ((s.freePlaceAt (cluOf c) (key / 2 ^ 32) (key % 2 ^ 32)).modCore c (fun y =>
      { y with arrq := y.arrq ++ [v.ctx] }))) ∧
  (∀ (s : State) (c n since : Nat) (t : Thread), s.thread? c n = some t → t.wait = .poll .granary → t.gwait = some (since, false) →
    since + 65536 ≤ s.counter → exec (.travelCongestion c n) s = .next
      ((s.modThread c n (fun t => { t with gwait := some (since, true) })).postRec 1 (s.core c).tag.val
        (cluIdx (cluOf c) * 2 ^ 40 + t.tid % 2 ^ 40))) ∧
  (∀ (s : State) (c : Nat), (s.holder c = true → ∃ u : State, exec (.holderAdvertise c) s = .next u ∧
    mget 0 c (u.clu (cluOf c)).adv = (s.core c).arrq.length ∧ { u with clusters := s.clusters } = s) ∧
    (s.holder c = false → exec (.holderAdvertise c) s = .next s)) ∧
  (∀ (s t : State) (k i key : Nat) (x : Saved), (s.clu k).places[i]? = some (key, x) → mfind key (s.clu k).places = some x →
    x.sealed = true → x.written = false → s.cur.split = false → ∀ tr, s.flowTrail (.granaryWriteback k key) = some tr →
    s.runs tr (Eng.putImage k (key % 2 ^ 32) x) = .ok ((), t) →
    let put (u : State) : Prop := ∃ y, mfind key (u.clu k).places = some y ∧ y = { x with written := true }
    (256 ≤ (s.clu k).cached ∨ (s.clu k).wbReq.contains key = true → ∃ u : State, exec (.granaryWriteback k i) s = .next u ∧ put u)) ∧
  -- a descriptor that had to wait on its way is written (R321, R348)
  (∀ (s t : State) (k i : Nat) (d : DescW), (s.clu k).descs[i]? = some d → d.paused = none → d.poison = none → s.cur.split = false →
    s.runs d.trail (Eng.wrBuf (granReq k) (globRa (s.descVa k d.part d.place)) d.bytes) = .ok ((), t) →
    exec (.granaryWriteback k ((s.clu k).places.length + i)) s =
      .next (t.modClu k (fun c => { c with descs := c.descs.eraseIdx i }))) ∧
  (∀ (s : State) (k i key : Nat) (x : Saved), (s.clu k).places[i]? = some (key, x) → x.sealed = false → s.engineBusy x.ctx.uid = false →
    exec (.imageSeal k i) s = .next (s.storePlace k (key % 2 ^ 32) { x with sealed := true })) ∧
  (∀ (s : State) (k : Nat) (x : Dword), mfind (placeKey (x.toNat / 2 ^ 32 % 16) (x.toNat % 2 ^ 32)) (s.clu k).places = none →
    exec (.granwbWrite k x) s = .next s) ∧
  (∀ (s : State) (k : Nat) (x : Dword) (y : Saved), let key := placeKey (x.toNat / 2 ^ 32 % 16) (x.toNat % 2 ^ 32)
    mfind key (s.clu k).places = some y → y.written = false → y.sealed = false →
    ∃ u : State, exec (.granwbWrite k x) s = .next u ∧ (u.clu k).wbReq.contains key = true)

/-! ## Privileged state (chapters 18, 23) -/

/-- R149, R286, R293: every privileged instruction off a service core traps with cause 0x02 and XVAL the base word; on one it waits until
the thread's relaxed accesses are performed and returned (IRET does not). R294 to R297, R325, R361, R364: with them returned and its
registers readable, each has its effect, its answer goes to g[d] and to the first word of its slot's mailbox, and it ends with an acquire at
system scope; a negative answer changes nothing else. SLOTSV waits where no place of the granary's cache can be freed. The model's choices:
that the answer stands in the first word of the slot's mailbox (entry 48), PTAGSET of a core number of 2048 or more (entry 90) and of a core
with a context in its arrival queue (57), HALTAT of cycle 0 and of the partitions 1 to 12 (entry 51), extra bits of a slot address (50), the
order of SLOTLD's checks (41), threads that start (52), a context of which only its descriptor is left (85), CALSET's owners 13 and 14 (55),
SCRUB's refusals and its clearing at once (56), the byte order of CAPMK (36), that FLUSHTK saves the compute cores of the partition alone
(53), an address that names no register (44), what TRAVREPL answers and where a holder stands (81). -/
def Obligations.PrivilegedInstructions : Prop :=
  (∀ (s : State) (d r : Fin 24),
    let forms : List Instr := [.prd d r, .pwr d r, .slotsv d r, .slotld d r, .haltat d r, .flushtk d, .pginv d r, .pgresume d r, .ptagset d r,
      .calset d r, .glaunch d r, .gcancel d r, .scrub d r, .capmk d r, .travrepl d r]
    (isService s.cur.core = false → ∀ i ∈ Instr.iret :: forms, exec i s = .next (s.trapHere 0x02 (s.baseWord.setWidth 64))) ∧
    (isService s.cur.core = true → s.drained s.cth.uid = false ∨ s.returned s.cth.uid = false →
      ∀ i ∈ forms, exec i s = .next (s.modCth (fun t => { t with wait := .poll .drain })))) ∧
  (∀ (s : State) (d r : Fin 24), isService s.cur.core = true → s.drained s.cth.uid = true → s.returned s.cth.uid = true →
    s.readable [d, r] →
    let a := s.cth.g[d.val]
    let x := s.cth.g[r.val]
    let pkg := s.boot.pkg
    let ends (i : Instr) (u : State) : Prop := exec i s = .next ((u.invalidate .sys).advance none)
    let ans (i : Instr) (u : State) (v : Int) : Prop := ends i (u.gives d (BitVec.ofInt 64 v))
    -- the instruction's own accesses are made to their end in this step (R349, entry 68)
    let whole : Prop := s.cur.split = false ∧ s.cth.poisoned = none
    let illegal (i : Instr) : Prop := exec i s = .next (s.trapHere 0x01 (s.baseIllegal 10))
    -- PRD, PWR
    (regAddrOk x = false → illegal (.prd d r)) ∧ (regAddrOk a = false → illegal (.pwr d r)) ∧
    (regAddrOk x = true → ends (.prd d r) ((s.regRead x).1.gives d (s.regRead x).2)) ∧
    (regAddrOk a = true → whole → ∀ u, s.runs s.cth.trail (Eng.regWrite a x) = .ok ((), u) → ends (.pwr d r) u) ∧
    (∀ (u : State) (y : Dword), (u.gives d y).cth.g = (writeG u d y).cth.g ∧
      mget 0 (8 * u.cur.slot) ((u.gives d y).core u.cur.core).mbox = y) ∧
    -- SLOTSV
    (s.slotOf x = none → ans (.slotsv d r) s (-1)) ∧
    (∀ c n, s.slotOf x = some (c, n) → (s.thread? c n = none → ans (.slotsv d r) s (-1)) ∧
      -- with the granary full the thread goes on where it stands
      (∀ t, s.thread? c n = some t → s.takeable t = true → s.freePlace (cluOf c) (s.core c).tag.val = none →
        ans (.slotsv d r) (s.modThread c n (fun t => { t with ctl := match t.ctl with | .saveReq => .run | x => x })) (-2)) ∧
      ∀ t, s.thread? c n = some t → s.takeable t = true → ∀ place, s.freePlace (cluOf c) (s.core c).tag.val = some place →
        ∃ v : Saved, v.core = c ∧ v.slot = n ∧ v.part = (s.core c).tag.val ∧ v.kind = 1 ∧ v.sealed = !s.engineBusy t.uid ∧
          v.ctx.g = t.g ∧ v.ctx.v = t.v ∧ v.ctx.k = t.k ∧ v.ctx.sg = t.sg ∧ v.ctx.p = t.p ∧ v.ctx.pc = t.pc ∧
          (s.mayStore (cluOf c) place v = true →
            ends (.slotsv d r) (State.gives (((s.storePlace (cluOf c) place v).modCore c (fun y => { y with slots := mdel n y.slots })).settle c) d
              (contextId (s.core c).tag.val (cluOf c) place))) ∧
          (s.mayStore (cluOf c) place v = false → exec (.slotsv d r) s = .next (State.modCth
            ((if t.ctl = .run then s.modThread c n (fun t => { t with ctl := .saveReq }) else s).askRoom (cluOf c) place v)
            (fun t => { t with wait := .poll .drain })))) ∧
    -- SLOTLD
    (¬ (a = 0 ∧ x.getLsbD 63 = true) →
      (s.slotOf a = none → ans (.slotld d r) s (-1)) ∧
      (∀ c m, s.slotOf a = some (c, m) → ((s.thread? c m).isSome = true → ans (.slotld d r) s (-1)) ∧
        (s.thread? c m = none → (s.contextOf c x = none → s.regionOf c x = none → ans (.slotld d r) s (-2)) ∧
          (∀ p k n v u, s.contextOf c x = none → s.regionOf c x = some (p, k, n) → whole →
            s.runs s.cth.trail (Eng.slotldRegion c m p k n) = .ok (v, u) → ans (.slotld d r) u v) ∧
          ∀ k n y v u, s.contextOf c x = some (k, n, y) → y.sealed = true → whole →
            s.runs s.cth.trail (Eng.slotld c m k n y) = .ok (v, u) → ans (.slotld d r) u v))) ∧
    (a = 0 → x.getLsbD 63 = true → let p := x.toNat % 2 ^ 63
      (mfind p s.sets = none → ans (.slotld d r) s (-2)) ∧
      (∀ set, mfind p s.sets = some set →
        let taken := ∃ c ∈ set.cores.map (fun e => e.1) ++ set.ctxs.filterMap (fun e => (s.setContext p e).map (fun x => x.core)),
          (s.core c).tag.val ≠ p ∨ (s.core c).slots ≠ [] ∨ (s.core c).arrq ≠ []
        (taken → ans (.slotld d r) s (-1)) ∧
        (¬ taken → whole → ∀ v u, s.runs s.cth.trail (Eng.restoreSet p set) = .ok (v, u) → ans (.slotld d r) u v))) ∧
    -- HALTAT, FLUSHTK
    (tenantOf a = none → ans (.haltat d r) s (-1) ∧ ans (.flushtk d) s (-1)) ∧
    (∀ p, tenantOf a = some p → (x = 0 → ends (.haltat d r) ((s.disarm p).gives d 0)) ∧
      (x ≠ 0 → let c := max x.toNat (s.counter + 64)
        ends (.haltat d r) ((s.arm p c).gives d (BitVec.ofNat 64 c)) ∧
          (s.stopCome p = false → { part := p, cycle := c, fired := false } ∈ (s.arm p c).stops) ∧
          (s.stopCome p = true → s.arm p c = s ∧ s.disarm p = s)) ∧
      ((∃ c ∈ s.coresOf p, (s.core c).halted = false) → ans (.flushtk d) s (-1)) ∧
      ((∀ c ∈ s.coresOf p, (s.core c).halted = true ∧ (s.core c).allHalted = true) →
        s.partBusy ((s.coresOf p).filter isCompute) = false → whole → ∀ n u,
        s.runs s.cth.trail (Eng.flush p ((s.coresOf p).filter isCompute)) = .ok (n, u) → ans (.flushtk d) u n)) ∧
    -- PGINV, PGRESUME
    ans (.pginv d r) (s.dropTlb a.toNat (if x = BitVec.allOnes 64 then none else some (x.toNat % 2 ^ 52))) 0 ∧
    (s.requestOf a = none → ans (.pgresume d r) s (-2)) ∧
    (∀ die i q, s.requestOf a = some (die, i, q) → x.toNat ≤ 1 → ans (.pgresume d r)
      ((s.modDie die (fun y => { y with reqs := mdel i y.reqs })).resumePage ⟨die, q.part, q.page⟩ (x == 1)) 0) ∧
    -- PTAGSET, CALSET
    (let c := ckey pkg a.toNat
     (a.toNat < 2048 → (s.core c).slots = [] → (s.core c).arrq = [] →
       (x.toNat % 16 ≤ 12 → let u := s.retag c (x.toNat % 16)
         ans (.ptagset d r) u 0 ∧ { u with cores := s.cores } = s ∧ (∀ c', c' ≠ c → u.core c' = s.core c') ∧
         u.core c = { s.core c with
           tag := Fin.ofNat 16 (x.toNat % 16), stoppend := s.stopPending (x.toNat % 16), halted := s.stopFired (x.toNat % 16) }) ∧
       (12 < x.toNat % 16 → ans (.ptagset d r) s (-3))) ∧
     (2048 ≤ a.toNat ∨ (a.toNat < 2048 ∧ ((s.core c).slots ≠ [] ∨ (s.core c).arrq ≠ [])) → ans (.ptagset d r) s (-1))) ∧
    (hopOf a = none ∨ x.toNat / 2 ^ 12 ≠ 0 → ans (.calset d r) s (-1)) ∧
    (∀ h, hopOf a = some h → x.toNat / 2 ^ 12 = 0 → x.toNat / 64 % 4 = 0 → ans (.calset d r) (s.modIo (fun io => { io with
      calPend := io.calPend ++ [{ hop := h, slot := x.toNat % 64, owner := x.toNat / 256 % 16 }] })) 0) ∧
    -- SCRUB
    (scrubOf a x pkg = .illegal → illegal (.scrub d r)) ∧ (scrubOf a x pkg = .refused → ans (.scrub d r) s (-1)) ∧
    (∀ c, scrubOf a x pkg = .core c → (s.core c).slots = [] → s.scrubs = [] →
      ∃ u : State, ans (.scrub d r) u 0 ∧ (u.core c).full = [] ∧ (∀ b, rdB (u.core c).mem b = 0) ∧ u.scrubs.length = 1) ∧
    (∀ k f n, scrubOf a x pkg = .frames k f n → s.linked k = true → s.scrubs = [] →
      ∃ u : State, ans (.scrub d r) u 0 ∧ u.cores = s.cores ∧ (∀ b, rdB u.kns b =
        if knsKey k (f * 65536) ≤ b ∧ b < knsKey k ((f + n) * 65536) then 0 else rdB s.kns b)) ∧
    -- CAPMK, TRAVREPL, IRET
    (capmkOk x.toNat = false → illegal (.capmk d r)) ∧
    (capmkOk x.toNat = true → ends (.capmk d r) (s.gives d (BitVec.ofNat 64 (x.toNat + s.capCheck x)))) ∧
    (a.toNat < 2 ^ 45 → x.toNat < 2 ^ 17 → x.toNat / 2 ^ 14 % 4 = 0 → x.toNat / 64 % 4 = 0 →
      let k := pkg * 64 + a.toNat / 2 ^ 40
      let e := travCheck ((s.clu k).maps.filter (fun m => m.node == a.toNat % 2 ^ 40)) (x.toNat % 64) (x.toNat / 256 % 64) (x.getLsbD 16)
      (e ≠ 0 → ans (.travrepl d r) s e) ∧
      (e = 0 → ans (.travrepl d r) (s.setHolder k (a.toNat % 2 ^ 40) (x.toNat % 64) (x.toNat / 256 % 64) (x.getLsbD 16)) 0)) ∧
    (let c := s.core s.cur.core
     (c.ien = true ∨ c.islot.val ≠ s.cur.slot → illegal .iret) ∧
     (c.ien = false → c.islot.val = s.cur.slot →
       exec .iret s = .next ((s.modCore s.cur.core (fun c => { c with ien := true })).advance (some c.epc)))))

/-- R289, R290, R292, R341, R357, R362: what a write of a register stores, as a read of it then returns: each register keeps the fields the
spec gives it (a reserved bit is ignored: entry 44; ACCASN stores an owner of 13 to 15 as written: entry 74). Interrupt registers, core and
cluster control, table roots, logical cores, migration and token registers of this package. -/
def Obligations.RegisterFields : Prop :=
  ∀ (s : State) (x : Dword) (n p w : Nat),
    let a (u i : Nat) : Dword := BitVec.ofNat 64 (u * 2 ^ 32 + i)
    let back (u i : Nat) : Dword := ((s.regWrite (a u i) x).regRead (a u i)).2
    let v := x.toNat
    (n < 2048 → let c := s.core (ckey s.boot.pkg n)
      (back n 0).toNat = min 32 (v / 1024 % 64) * 1024 + (if c.halted then 128 else 0) + (if c.stoppend then 64 else 0) + c.tag.val) ∧
    (n < 2048 → w < 32 → back n (0x100 + 2 * w) = x) ∧
    (n < 32 → p ≤ 12 → back (0x800 + n) p = x) ∧ (n < 32 → w < 256 → (back (0x800 + n) (0x20 + w)).toNat = v % 16) ∧
    (n < 32 → 1 ≤ p → p ≤ 12 → back (0x800 + n) (0x200 + p) = x) ∧
    (n < 32 → w < 8 → (back (0x800 + n) 0x300).toNat / 16 ^ w % 16 = (let o := v / 16 ^ w % 16; if 12 < o then 0 else o)) ∧
    (n < 4 → back (0x880 + n) 0 = x ∧ back (0x880 + n) 1 = x) ∧
    (n < 4 → let y := (back (0x880 + n) 2).toNat
      y % 2 = v % 2 ∧ y / 256 % 32 = v / 256 % 32 ∧ y / 2 ^ 32 = (s.core (ckey s.boot.pkg (2048 + n))).lost &&& (65535 - v / 2 ^ 32 % 65536)) ∧
    (p ≤ 12 → back 0x8C0 (0x400 + p) = x &&& 0xFC00FFFFFFFFF001) ∧
    (1 ≤ p → p ≤ 12 → w < 4 → mget 0 (4 * p + w) (s.regWrite (a 0x8C0 (0x100 + 16 * w + p)) x).io.capkey = x) ∧
    (n < 4 → back (0x900 + n) 0 = x &&& 0xF00FFFFFFFFF0001 ∧ back (0x900 + n) 1 = x &&& 0xFC00FFFFFFFFF000 ∧
      back (0x900 + n) 0x10 = x &&& 3) ∧
    (n < 4 → p ≤ 12 → back (0x900 + n) (0x20 + p) = x &&& 0xFFFFFFFF01FF) ∧
    (p ≤ 12 → n < 2048 → back (0xA00 + p) n = x &&& 0x80000000000007FF)

/-- R223, R287, R289, R294, R296, R297, R329, R334, R336, R357, R361, R363, R364: the steps of the privileged state. An interrupt, at a
group boundary, saves the program counter and goes to IVEC with interrupts off; reads of INTQ and WLOG pop; a stop that has come asks every
thread of its partition to halt, and each does at its boundary; a debug halt posts its slot; calendar changes take effect at a furlong
boundary, in order; scrubs advance and post at their end; buckets refill. The model's choices: an interrupt ends polls and parking (entry
58), a stop halts gateway threads too (53), calendar owners 13 and 14 (55), that a step of a scrub's sweep moves its pointer alone and
changes no byte, the range reading zero since SCRUB answered (56; R364 has the sweep zero each line). -/
def Obligations.ControlEvents : Prop :=
  (∀ (s : State) (c : Nat) (t : Thread), let n := (s.core c).islot.val
    s.thread? c n = some t → isService c = true → (s.core c).ien = true → s.io.intq ≠ [] → t.interruptible = true →
    ∃ u : State, exec (.interruptTake c) s = .next u ∧ (u.core c).epc = t.pc ∧ (u.core c).ien = false ∧
      u.thread? c n = some { t with pc := (s.core c).ivec, wait := .ready, trail := [] } ∧ u.io = s.io) ∧
  (∀ (s : State) (c : Nat) (t : Thread), s.thread? c (s.core c).islot.val = some t →
    isService c = false ∨ (s.core c).ien = false ∨ s.io.intq = [] ∨ t.interruptible = false → exec (.interruptTake c) s = .next s) ∧
  (∀ (s : State) (x : Dword) (xs : List Dword), (s.io.intq = [] → exec .intqRead s = .next { s with busRead := 0 }) ∧
    (s.io.intq = x :: xs → s.io.held = [] →
      exec .intqRead s = .next { (s.modIo (fun io => { io with intq := xs })) with busRead := x })) ∧
  (∀ (s : State) (p : Nat) (x : Dword) (xs : List Dword), 1 ≤ p → p ≤ 12 → mget [] p s.io.wlog = x :: xs →
    exec (.wlogRead p) s = .next { (s.modIo (fun io => { io with wlog := mset [] p xs io.wlog })) with busRead := x }) ∧
  (∀ (s : State) (p w n : Nat) (a x : Dword),
    (1 ≤ p → p ≤ 12 → w < 4 → exec (.capkeyWrite p w x) s = .next (s.setCapkey p w x)) ∧
    (p ≤ 12 → n < 2048 → exec (.lctWrite p n x) s = .next (s.setLct p n x)) ∧
    (regAddrOk a = true → exec (.registerWrite a x) s = .next (s.regWrite a x))) ∧
  (∀ (s : State) (p : Nat) (x : Stop), x ∈ s.stops → x.part = p → x.fired = false → x.cycle ≤ s.counter →
    ∃ u : State, exec (.tenantStop p) s = .next u ∧ u.stopFired p = true ∧ u.kns = s.kns ∧ ∀ c n t, s.thread? c n = some t →
      u.thread? c n = some (if (s.core c).tag.val = p ∧ t.ctl = .run then { t with ctl := .haltReq .tenant } else t)) ∧
  (∀ (s : State) (c n : Nat) (t : Thread), s.thread? c n = some t → s.drained t.uid = true → s.returned t.uid = true →
    (t.ctl = .haltReq .tenant → t.wait = .ready → t.midway = false → ∃ u : State, exec (.threadHalt c n) s = .next u ∧
      u.thread? c n = some { t with ctl := .halted .tenant, wait := .ready } ∧
      ∀ c' n', (c' ≠ c ∨ n' ≠ n) → u.thread? c' n' = s.thread? c' n') ∧
    (t.ctl = .haltReq .debug → n < 32 → t.midway = false → exec (.debugHalt c n) s =
      .next (((s.modThread c n (fun t => { t with ctl := .halted .debug })).settle c).postRec 4 (s.core c).tag.val (slotAddr c n)))) ∧
  -- every change that waits for the hop is made, of several to one slot the last that arrived
  (∀ (s : State) (h : Nat), (∃ x ∈ s.io.calPend, x.hop = h) →
    ∃ u : State, exec (.furlongBoundary h) s = .next u ∧ u.io.calPend = s.io.calPend.filter (fun y => y.hop != h) ∧
      (∀ (l r : List CalPending) (x : CalPending), s.io.calPend = l ++ x :: r → x.hop = h → (∀ y ∈ r, y.hop = h → y.slot ≠ x.slot) →
        mget 0 (64 * h + x.slot) u.io.cal = if x.owner = 15 then 0 else x.owner + 1) ∧
      (∀ k, (∀ y ∈ s.io.calPend, y.hop = h → k ≠ 64 * h + y.slot) → mget 0 k u.io.cal = mget 0 k s.io.cal) ∧ { u with io := s.io } = s) ∧
  (∀ (s : State) (x : Scrub) (xs : List Scrub), s.scrubs = x :: xs →
    (x.next + 1 < x.stop → exec (.scrubSweep 0) s = .next { s with scrubs := { x with next := x.next + 1 } :: xs }) ∧
    (x.stop ≤ x.next + 1 → exec (.scrubSweep 0) s = .next (State.postRec { s with scrubs := xs } 7 0 (x.arg.toNat % 2 ^ 52)))) ∧
  (∀ (s : State) (k : Nat), (s.die k).refills < s.counter / 1024 → (s.die k).qosctl.getLsbD 1 = false →
    ∃ u : State, exec (.tokenRefill k) s = .next u ∧ (u.die k).demand = [] ∧ (u.die k).refills = (s.die k).refills + 1 ∧
      ∀ p ≤ 12, mget 0 p (u.die k).blevel = min (mget 0 p (s.die k).blevel + bucketRefill (mget 0 p (s.die k).bucket))
        (bucketDepth (mget 0 p (s.die k).bucket)))

/-! ## Graphs (chapter 19) -/

/-- R57, R294, R300 to R313: the graph scheduler and the dispatchers, where no store of theirs must wait for a page or tokens; an event of a
graph waits while another one has begun. GLAUNCH
answers the id or the code of the first failed check, or waits for room; GCANCEL starts a walk; a token counts towards a node's need; a
READY node is dispatched and RUNNING, one with groups on other packages from its first placement; a node that has done its work is DONE; the
first fault of an attempt is handled and a later one dropped; a quiet RETRYING node is READY for its next attempt; a walk cancels; a graph
with everything ended completes, and its parent's node has its status. A stop reaches every thread of an attempt, and no context of it stays
on its way. The model's choices: GLAUNCH of a partition above 12 (entry 49), extra bits of GCANCEL (50), what a step makes at once (68). -/
def Obligations.Graphs : Prop :=
  (∀ (s : State) (d r : Fin 24), isService s.cur.core = true → s.drained s.cth.uid = true → s.returned s.cth.uid = true →
    s.readable [d, r] →
    let a := s.cth.g[d.val]
    let x := s.cth.g[r.val]
    let ans (i : Instr) (u : State) (v : Int) : Prop := exec i s = .next (((u.gives d (BitVec.ofInt 64 v)).invalidate .sys).advance none)
    -- the accesses are made to their end in this step (R349, entry 68)
    let whole : Prop := s.cur.split = false ∧ s.cth.poisoned = none
    (12 < a.toNat → ans (.glaunch d r) s (-4)) ∧
    (a.toNat ≤ 12 → whole → ∀ v u, s.runs s.cth.trail (Eng.launch a.toNat x) = .ok (v, u) → ans (.glaunch d r) u v) ∧
    (a.toNat ≤ 12 → s.cur.split = true → ∀ u, Eng.launch a.toNat x (s.begins s.cth.trail true) = .error (.again u .room) →
      exec (.glaunch d r) s = .next ((s.keepTrail s.cth.trail).modCth (fun t => { t with wait := .poll .room }))) ∧
    (s.graphOf a.toNat = none → ans (.gcancel d r) s (-2)) ∧
    (∀ gk g, s.graphOf a.toNat = some (gk, g) →
      (x ≠ BitVec.allOnes 64 → g.nodes.length ≤ x.toNat → ans (.gcancel d r) s (-3)) ∧
      (x = BitVec.allOnes 64 ∨ x.toNat < g.nodes.length →
        let w : Walk := if x = BitVec.allOnes 64 then { queue := List.range g.nodes.length, seen := [], whole := true }
          else { queue := [x.toNat], seen := [] }
        let who : Instr := .engineMailboxPost s.cth.uid
        (s.graphBusy gk who = false → ∀ tr u, s.flowTrail who = some tr → s.runs tr (fun y =>
            Eng.setGstate gk 2 (y.modGraph gk (fun g => { g with walks := g.walks ++ [w], cancelled := true }))) = .ok ((), u) →
          ans (.gcancel d r) { u with waits := u.waits.filter (fun w => w.who != who) } 0) ∧
        (s.graphBusy gk who = true → exec (.gcancel d r) s = .next (s.modCth (fun t => { t with wait := .poll .hold })))))) ∧
  -- a submission: the first failed check's code; with every check passed the graphs take their places, or wait for them
  (∀ (s t : State) (p : Nat) (a : Dword) (gs : List GRead) (code : Int),
    let req := s.schedReq p (8 * s.cth.uid + 3)
    ((readSubmission req p a).run s = .ok (.error code, t) → Eng.launch p a s = .ok (code, t)) ∧
    ((readSubmission req p a).run s = .ok (.ok gs, t) →
      (1024 < t.graphs.length + gs.length → Eng.launch p a s = .error (.again t .room)) ∧
      (t.graphs.length + gs.length ≤ 1024 → ∀ id u, Eng.submit p gs t = .ok (id, u) → Eng.launch p a s = .ok ((id : Int), u)))) ∧
  (∀ (s t : State) (gk i : Nat) (n : Node) (b : Bool), s.nodeAt gk i = some n → Eng.token gk i s = .ok (b, t) →
    (b = true ↔ n.state = .waiting) ∧ (b = false → t = s) ∧ (b = true → ∃ m, t.nodeAt gk i = some m ∧ m.tokens = n.tokens + 1 ∧
      m.state = if n.tokens + 1 = n.need then .ready else .waiting)) ∧
  (∀ (s t : State) (gk i : Nat) (g : Graph) (n : Node), mfind gk s.graphs = some g → g.nodes[i]? = some n →
    -- a step of the scheduler that waits for no page and no other event of its graph, from the accesses it has made on, and the machine
    -- after it (R300, R304, R348, R349)
    let runs (who : Instr) (e : Eng Unit) : Prop :=
      s.cur.split = false ∧ s.graphBusy gk who = false ∧ ∃ tr, s.flowTrail who = some tr ∧ s.runs tr e = .ok ((), t)
    let past (who : Instr) (u : State) : State := { u with waits := u.waits.filter (fun w => w.who != who) }
    let takes (who : Instr) : Prop := exec who s = .next (past who t)
    (∀ who ∈ [Instr.nodeDispatch gk i, .nodeComplete gk i, .nodeRetry gk i, .cancellingFinish gk i, .walkStep gk, .graphComplete gk],
      s.graphBusy gk who = true → exec who s = .next s) ∧
    (let who : Instr := .nodeDispatch gk i
     g.dispatchable n = true → s.firstReady g.part n.readyAt = true → runs who (Eng.dispatch gk i g n) →
      takes who ∧ ∃ m, t.nodeAt gk i = some m ∧ m.attempt = n.attempt ∧
        let far : Prop := n.kind = .kernel ∧ ∃ l, n.launch = some l ∧ s.farLaunch l = true ∧ launchGroups l 0 ≠ []
        (far → m.state = .ready ∧ ∀ l, n.launch = some l → m.groups = launchGroups l 0) ∧ (¬ far → m.state = .running)) ∧
    (let who : Instr := .nodeComplete gk i
     s.nodeDone (g.nid i) n = true → runs who (Eng.complete gk i n) →
      takes who ∧ (n.succ = [] → ∃ m, t.nodeAt gk i = some m ∧ m.state = .done)) ∧
    (let who : Instr := .nodeRetry gk i
     n.state = .retrying → s.nodeQuiet (g.nid i) n = true →
      let m : Node := { n with budget := n.budget - 1, attempt := n.attempt + 1, faulted := false, left := [], groups := [] }
      runs who (Eng.retryNode gk i g n) → takes who ∧ t.nodeAt gk i = some (m.ready s)) ∧
    (let who : Instr := .cancellingFinish gk i
     n.state = .cancelling → s.nodeQuiet (g.nid i) n = true → (n.kind = .sub → n.result.isSome = true) →
      runs who (Eng.setNode gk i { n with state := .cancelled }) →
        takes who ∧ ∃ m, t.nodeAt gk i = some m ∧ m.state = .cancelled) ∧
    (let who : Instr := .walkStep gk
     ∀ w ws, g.walks = w :: ws → s.graphBusy gk who = false → (s.flowTrail who).isSome = true →
      (w.queue = [] → exec who s = .next (past who (s.modGraph gk (fun g => { g with walks := ws })))) ∧
      (∀ ys, w.queue = i :: ys → w.seen.contains i = true →
        exec who s = .next (past who (s.modGraph gk (fun g => { g with walks := if ys = [] then ws else { w with queue := ys } :: ws })))) ∧
      (∀ ys, w.queue = i :: ys → w.seen.contains i = false → runs who (Eng.walk gk g) →
        let ys := if w.whole then ys else ys ++ n.succ
        takes who ∧ (n.state = .waiting ∨ n.state = .ready → t.nodeAt gk i = some { n with state := .cancelled, groups := [] }) ∧
        (n.state = .running ∨ n.state = .retrying → ∃ m, t.nodeAt gk i = some m ∧ m.state = .cancelling ∧ m.groups = []) ∧
        (n.state = .done ∨ n.state = .faulted ∨ n.state = .cancelling ∨ n.state = .cancelled → t.nodeAt gk i = some n) ∧
        (n.child ≠ some gk → ∃ g', mfind gk t.graphs = some g' ∧
          g'.walks = if ys = [] then ws else { w with queue := ys, seen := w.seen ++ [i] } :: ws))) ∧
    (let who : Instr := .graphComplete gk
     s.graphDone g = true → runs who (Eng.endGraph gk g) →
      takes who ∧ mfind gk t.graphs = none ∧
        ∀ pk j m, g.parent = some (pk, j) → t.nodeAt pk j = some m → m.result = some g.status) ∧
    (g.status = if (∀ n ∈ g.nodes, n.state = .done) then 1 else if (∃ n ∈ g.nodes, n.state = .faulted) then 2 else 3)) ∧
  (∀ (s : State) (gk i nid att : Nat), let u := s.stopAttempt gk i nid att
    (∀ c k x, u.thread? c k = some x → x.ofNode nid att = true → x.ctl = .stopReq) ∧ (∀ q ∈ u.pkts, q.ctx.ofNode nid att = false) ∧
      ∀ c, ∀ x ∈ (u.core c).arrq, x.ofNode nid att = false) ∧
  (∀ (s t : State) (f : NFault) (fs : List NFault) (gk j : Nat) (n : Node) (g : Graph), s.nfaults = f :: fs →
    (s.nodeOf f.node = none → exec (.nodeFault 0) s = .next { s with nfaults := fs }) ∧
    (s.nodeOf f.node = some (gk, j, n) → s.graphBusy gk (.nodeFault (gk * 4096 + j)) = true → exec (.nodeFault 0) s = .next s) ∧
    (s.nodeOf f.node = some (gk, j, n) → s.graphBusy gk (.nodeFault (gk * 4096 + j)) = false →
      n.attempt ≠ f.attempt ∨ n.faulted = true ∨ n.state ≠ .running →
      exec (.nodeFault 0) s = .next { s with nfaults := fs }) ∧
    (s.nodeOf f.node = some (gk, j, n) → n.attempt = f.attempt → n.faulted = false → n.state = .running → mfind gk s.graphs = some g →
      g.nodes[j]? = some n → let who : Instr := .nodeFault (gk * 4096 + j)
      s.cur.split = false → s.graphBusy gk who = false → ∀ tr, s.flowTrail who = some tr → s.runs tr (Eng.nodeFault gk j g n f) = .ok ((), t) →
      exec (.nodeFault 0) s = .next { t with nfaults := ldel t.nfaults 0, waits := t.waits.filter (fun w => w.who != who) } ∧
      (∃ m, t.nodeAt gk j = some m ∧ m.faulted = true ∧ m.state = if n.budget ≠ 0 ∧ n.retrySafe = true then .retrying else .faulted) ∧
      (n.budget = 0 ∨ n.retrySafe = false → ∃ g', mfind gk t.graphs = some g' ∧ g'.gstate = 2 ∧ g'.faults = g.faults ++ [j] ∧
        g'.walks = if n.succ = [] then g.walks else g.walks ++ [{ queue := n.succ, seen := [j] }]))) ∧
  (∀ (s u : State) (c n : Nat) (d r : Fin 24), s.roomWaiter = some (c, n) → s.fetch c n = .run u (.glaunch d r) →
    ∃ v : State, exec .graphAccept s = .next v ∧ exec (.glaunch d r) u = .next v) ∧
  -- a group is placed whole where it fits; a failed map check faults the node
  (∀ (s t : State) (i gk j x : Nat) (g : Graph) (n : Node) (l : Launch) (gr : Group) (qs : List (List Nat)) (tr : List Made) (e : Dword),
    s.waiting[i]? = some (gk, j, x) →
    mfind gk s.graphs = some g → g.nodes[j]? = some n → n.launch = some l → n.groups[x]? = some gr →
    (∀ y ∈ n.groups.take x, y.die ≠ gr.die) → s.fitsNow g.part (g.nid j) l gr.die = some qs →
    let who : Instr := .groupPlace ((gk * 4096 + j) * 1024 + gr.die)
    let past (u : State) : State := { u with waits := u.waits.filter (fun w => w.who != who) }
    let place (u : State) : State := ((past u).placeGroup l (g.nid j) n.attempt gr qs).placed gk j x n
    -- a node that is RUNNING already keeps its record; one that waited for its first placement becomes so
    (n.state = .running → ∀ u : State, u.placed gk j x n = u.setNode gk j { n with groups := ldel n.groups x, state := .running }) ∧
    (s.graphBusy gk who = true → exec (.groupPlace i) s = .next s) ∧
    (s.graphBusy gk who = false → s.flowTrail who = some tr →
      (s.cur.split = false → s.runs tr (Eng.placing g.part (g.nid j) n.attempt l gr.lv qs) = .ok (.ok (), t) →
        exec (.groupPlace i) s = .next (place t)) ∧
      (l.travel = false → exec (.groupPlace i) s = .next (place s)) ∧
      (s.cur.split = false → s.runs tr (Eng.placing g.part (g.nid j) n.attempt l gr.lv qs) = .ok (.error e, t) → exec (.groupPlace i) s = .next
        (((past t).placed gk j x n).faultNode (g.nid j) n.attempt 0x0D 0 e none)))) ∧
  (∀ (s t : State) (c i : Nat) (k : Claim) (l : Launch) (bs : List Byte), (s.core c).claims[i]? = some k →
    s.launchOf (some k.node) = some l → k.ready = false → k.failed = false → k.paused = none → k.poison = none → l.travel = false →
    s.cur.split = false → s.runs k.trail (Eng.rdBuf (s.imageReq c) l.image l.imglen) = .ok (bs, t) → (t.core c).claims = (s.core c).claims →
    let img := l.scoped bs
    ∃ u : State, exec (.imageCopy c i) s = .next u ∧ (u.core c).claims[i]? = some { k with ready := true, trail := [] } ∧
      (∀ b, rdB (u.core c).mem b = if l.origin ≤ b ∧ b < l.origin + img.length then img.getD (b - l.origin) 0 else rdB (t.core c).mem b))

/-! ## Paging, links, bring-up (chapters 22, 24) -/

/-- R294, R318, R345 to R353: pages. PGINV leaves no translation of the page; a pending request takes the lowest free entry of its die's
queue once there is room (that it is the lowest one is the model's choice: entry 29); a wake makes the threads parked on the page ready;
MIGGO starts the die's unit or is rejected; a migration whose leaf is sound holds the page's stores, behind the holds of other units, one
whose leaf is poisoned ends with cause 1; then it copies the frame and, with no access past a port to it, writes the leaf and ends (the copy
and the switch in one step, or 64 bytes a step: entry 46). A page poisoned meanwhile or a source that cannot be read ends it with cause 4 or
3 and the page poisoned, a destination that cannot be written with cause 5, as does a store of the leaf that fails, the model's choice
(entry 46). -/
def Obligations.Paging : Prop :=
  (∀ (s : State) (p k : Nat) (va : Option Nat), cluPkg k = s.boot.pkg → ∀ e ∈ ((s.dropTlb p va).clu k).tlb,
    ¬ (e.part = p ∧ ∀ a, va = some a → e.page = if e.big then a / 2 ^ 25 else a / 2 ^ 16)) ∧
  (∀ (s : State) (k e : Nat) (q : PageReq) (qs : List PageReq), (s.die k).pending = q :: qs → (s.die k).room q.part = true → e < 4096 →
    mfind e (s.die k).reqs = none → (∀ i < e, (mfind i (s.die k).reqs).isSome = true) →
    ∃ u : State, exec (.pageRequestEntry k) s = .next u ∧ mfind e (u.die k).reqs = some { q with own := (s.die k).ownFree q.part } ∧
      (u.die k).pending = qs) ∧
  (∀ (s : State) (m : PageWakeMsg) (ms : List PageWakeMsg), s.pageWakes = m :: ms →
    ∃ u : State, exec (.pageWake 0) s = .next u ∧ u.pageWakes = ms ∧ ∀ c n t, s.thread? c n = some t → u.thread? c n = some
      (if t.wait = .parked m.key ∧ t.uid ∈ m.uids then { t with wait := .ready, poisoned := if m.poison then some m.key else t.poisoned }
       else t)) ∧
  (∀ (s : State) (k : Nat) (x : Dword), k / 4 = s.boot.pkg → x.getLsbD 0 = true → ∃ u : State, exec (.miggoWrite k x) s = .next u ∧
    (u.die k).migst = 1 ∧ ((s.die k).migst = 1 → (u.die k).migrej = true) ∧ ((s.die k).migst ≠ 1 → (u.die k).migcause = 0)) ∧
  (∀ (s : State) (k : Nat), (s.die k).migst = 1 → (s.die k).mig = none → s.heldBefore k = true → exec (.migration k) s = .next s) ∧
  (∀ (s : State) (k pkg a x : Nat), (s.die k).migst = 1 → (s.die k).mig = none → s.heldBefore k = false →
    let va := (s.die k).migva.toNat
    let p := va / 2 ^ 60
    let big := (s.die k).migva.getLsbD 0
    let page := va / 2 ^ 16 % 2 ^ 36 * 65536
    let root := mget 0 p s.io.ptroot
    let y := withFrame x (s.die k).migdst
    p ≤ 12 → root.getLsbD 0 = true →
    findLeaf s (root.toNat / 2 ^ 58) (root.toNat / 2 ^ 12 % 2 ^ 36 * 4096) page 4 = some (pkg, a, x, big) →
    (ptePoison x = true → ∃ u : State, exec (.migration k) s = .next u ∧ (u.die k).migst = 3 ∧ (u.die k).migcause = 1 ∧ u.kns = s.kns) ∧
    (ptePoison x = false → pteMalformed (if big then 2 else 3) y = false → (ptePkg y, pteAddr y) ≠ (ptePkg x, pteAddr x) →
      exec (.migration k) s = .next (s.modDie k (fun d => { d with
        mig := some { part := p, va := page / pageBytes big * pageBytes big, pkg := pkg, pte := a, old := x, new := y, size := pageBytes big
                      next := 0 } })))) ∧
  (∀ (s : State) (k n : Nat) (m : Mig), s.kns.wf = true → (s.die k).migst = 1 → (s.die k).mig = some m → m.next < m.size →
    (m.next = 0 ∨ s.cur.split = false → s.frameBusy (ptePkg m.old) (pteAddr m.old) m.size = false) →
    n = (if s.cur.split = true then 64 else m.size - m.next) →
    let readable := s.frameReached (ptePkg m.old) (pteAddr m.old + m.next) n = true ∧
      s.badFrame (ptePkg m.old) (pteAddr m.old + m.next) n = false
    let writable := s.frameReached (ptePkg m.new) (pteAddr m.new + m.next) n = true ∧
      s.badFrame (ptePkg m.new) (pteAddr m.new + m.next) n = false
    let stored := s.linked m.pkg = true ∧ s.badAt m.pkg m.pte 8 = false
    let src := knsKey (ptePkg m.old) (pteAddr m.old + m.next)
    let dst := knsKey (ptePkg m.new) (pteAddr m.new + m.next)
    let leaf := knsKey m.pkg m.pte
    let moved (b : Nat) : Byte := if dst ≤ b ∧ b < dst + n then rdB s.kns (b - dst + src) else rdB s.kns b
    ∃ u : State, exec (.migration k) s = .next u ∧
      (s.migPoisoned m = false → readable → writable →
        (s.cur.split = true → (u.die k).mig = some { m with next := m.next + n } ∧ ∀ b, rdB u.kns b = moved b) ∧
        (s.cur.split = false → (u.die k).mig = none ∧
          (stored → (u.die k).migst = 2 ∧ (u.die k).migcause = 0 ∧ rdLE u.kns leaf 8 = m.new % 2 ^ 64 ∧
            ∀ b, (b < leaf ∨ leaf + 8 ≤ b) → rdB u.kns b = moved b) ∧
          (¬ stored → (u.die k).migst = 3 ∧ (u.die k).migcause = 5 ∧ ∀ b, rdB u.kns b = moved b))) ∧
      (s.migPoisoned m = false → readable → ¬ writable →
        (u.die k).mig = none ∧ (u.die k).migst = 3 ∧ (u.die k).migcause = 5 ∧ u.kns = s.kns) ∧
      (s.migPoisoned m = true ∨ ¬ readable →
        (u.die k).mig = none ∧ (u.die k).migst = 3 ∧ (u.die k).migcause = (if s.migPoisoned m = true then 4 else 3) ∧
          (¬ stored → u.kns = s.kns) ∧ (stored → rdLE u.kns leaf 8 = (m.old ||| 128) % 2 ^ 64 ∧
            ∀ b, (b < leaf ∨ leaf + 8 ≤ b) → rdB u.kns b = rdB s.kns b))) ∧
  (∀ (s : State) (k : Nat) (m : Mig), s.kns.wf = true → (s.die k).migst = 1 → (s.die k).mig = some m → m.size ≤ m.next →
    let leaf := knsKey m.pkg m.pte
    (s.frameBusy (ptePkg m.old) (pteAddr m.old) m.size = true → exec (.migration k) s = .next s) ∧
    let stored := s.linked m.pkg = true ∧ s.badAt m.pkg m.pte 8 = false
    (s.frameBusy (ptePkg m.old) (pteAddr m.old) m.size = false → ∃ u : State, exec (.migration k) s = .next u ∧ (u.die k).mig = none ∧
      (stored → (u.die k).migst = 2 ∧ (u.die k).migcause = 0 ∧ rdLE u.kns leaf 8 = m.new % 2 ^ 64 ∧
        ∀ b, (b < leaf ∨ leaf + 8 ≤ b) → rdB u.kns b = rdB s.kns b) ∧
      (¬ stored → (u.die k).migst = 3 ∧ (u.die k).migcause = 5 ∧ u.kns = s.kns)))

/-- R366 to R376: link ports, gateways, flows and the host ports. A trained link is up at the common rate, or refused for a package it does
not expect; one that goes down loses what crosses it, the copies' requests too, and posts its state; replays are counted; LCTL, FLOW and
GWDATA writes store their fields; GWSTART starts a thread in the lowest free slot with the gateway's arguments; a supported packet and a
mapped DMA access act on tag 0's memory, buffered ones in the order their port took them, any other is dropped. The model's choices: that a
down link trains (entry 78), GWSTART of the whole written value as the entry (59), a DMA that is only partly mapped is dropped whole (62),
the sizes and limits of Ultra Ethernet atomics and packets (79), what a packet does in one step (68), that a piece which is done but not
answered when its link is lost fails with 0x0C, a copy as `copyAt` says (75). -/
def Obligations.LinksAndHost : Prop :=
  (∀ (s : State) (n seen f pt : Nat) (far : BitVec 2) (x : Dword),
    let p := s.port n
    let c := ckey s.boot.pkg (2052 + n)
    (n < 24 → ∃ u : State, exec (.lctlWrite n x) s = .next u ∧ (u.port n).rate = x.toNat / 64 % 4 ∧ (u.port n).peer = x.toNat % 64 ∧
      (u.port n).lstate = (if x.toNat / 64 % 4 = 0 then 0 else 1) ∧ (u.port n).flows = p.flows) ∧
    (p.lstate < 2 → seen < 64 → trainedRate p.rate far ≠ 0 →
      (seen = p.peer → exec (.linkTrained n seen far) s =
        .next (s.modPort n (fun p => { p with seen := seen, lstate := 2, lrate := trainedRate p.rate far }))) ∧
      (seen ≠ p.peer → exec (.linkTrained n seen far) s = .next (s.modPort n (fun p => { p with seen := seen, lstate := 3, lrate := 0 })))) ∧
    (p.lstate = 2 → exec (.linkDown n) s =
      .next (((s.modPort n (fun p => { p with lstate := 0, lrate := 0 })).linkLost n).postRec 9 0 (n * 2 ^ 47))) ∧
    ((∀ e ∈ s.net, ∀ y ∈ e.pieces, s.crosses n y = false) → (∀ y ∈ s.copies, s.copyAt n y = none) → s.linkLost n = s) ∧
    (∀ (a : Access) (q : Piece), (∃ y, q.stage = .done y) → s.losePiece a q = (s, { q with stage := .failed 0x0C })) ∧
    (p.lstate = 2 → exec (.flitReplay n) s = .next (s.modPort n (fun p => { p with replays := min (2 ^ 32 - 1) (p.replays + 1) }))) ∧
    (n < 24 → ∃ u : State, exec (.gwdataWrite n x) s = .next u ∧
      rdLE (u.core c).mem (s.core c).gwaddr.toNat 8 = x.toNat ∧ (u.core c).gwaddr = (s.core c).gwaddr + 8 ∧
      (∀ b, b < (s.core c).gwaddr.toNat ∨ (s.core c).gwaddr.toNat + 8 ≤ b → rdB (u.core c).mem b = rdB (s.core c).mem b)) ∧
    (n < 24 → ∃ u : State, exec (.gwdataRead n) s = .next u ∧
      u.busRead.toNat = rdLE (s.core c).mem (s.core c).gwaddr.toNat 8 ∧ (u.core c).gwaddr = (s.core c).gwaddr + 8 ∧
      (u.core c).mem = (s.core c).mem) ∧
    (n < 24 → pt ≤ 12 → f < 16 → x.getLsbD 63 = true → flowOpens x.toNat = true → ∃ u : State, exec (.flowOpen n pt f x) s = .next u ∧
      (let q := mget {} (16 * pt + f) (u.port n).flows
       q.reg.getLsbD 63 = true ∧ q.reg.toNat % 2 ^ 56 = x.toNat % 2 ^ 56 ∧ q.counts = [] ∧ q.ready = [])) ∧
    (n < 24 → pt ≤ 12 → f < 16 → x.getLsbD 63 = false → ∃ u : State, exec (.flowClose n pt f x) s = .next u ∧
      (let q := mget {} (16 * pt + f) (u.port n).flows
       q.reg.getLsbD 63 = false ∧ q.ready = (mget {} (16 * pt + f) p.flows).ready)) ∧
    (∀ k segs t, n < 24 → (s.core c).freeSlot = some k → (s.core c).gwseg ≠ 0 →
      ∀ tr, s.flowTrail (.gwstartWrite n x) = some tr →
      s.cur.split = false → s.runs tr (readSegs
        { core := c, port := cluOf c, tag := (s.core c).tag.val, thr := false, kind := 4, unit := idxOf c, uid := 0, id := 6 }
        (s.core c).tag.val (s.core c).gwseg).run = .ok (.ok segs, t) →
      ∃ (u : State) (y : Thread), exec (.gwstartWrite n x) s = .next u ∧ u.thread? c k = some y ∧ y.pc = x ∧
        y.node = none ∧ y.tid = k ∧ y.lvIdx = [] ∧ y.lvExt = [] ∧
        (∀ i < 4, y.g.toList.getD i 0 = (s.core c).gwarg.toList.getD i 0) ∧ (∀ i < 8, y.sg.toList.getD i {} = segs.getD i {}))) ∧
  (∀ (s t : State) (n va k ep assoc gen lanes : Nat) (ord : Bool) (data : List Byte) (v e : Dword) (f : AmoOp),
    -- a packet that waits for no page and stands behind none, from the accesses it has made on, and the machine after it (R348, R349)
    let acts (who : Instr) (did : List Made → Except EngStop State) : Prop := ∀ tr, s.flowTrail who = some tr → s.packetBehind who = false →
      s.cur.split = false → did tr = .ok t → exec who s = .next { t with waits := t.waits.filter (fun w => w.who != who) }
    let writes (who : Instr) : Prop := acts who (fun tr => (s.runs tr (Eng.wrBuf s.ioReq (globRa va) data)).map (fun y => y.2))
    let reads (who : Instr) : Prop := acts who (fun tr => (s.runs tr (Eng.rdBuf s.ioReq (globRa va) k)).map (fun y => y.2))
    let atomic (who : Instr) (op : POp) : Prop := acts who (fun tr => (s.runs tr (Eng.acc s.ioReq (globRa va) k op)).map (fun y => y.2))
    (n < 8 → mget 0 n s.boot.ue ≠ 0 →
      let pkt (op : UeOp) : Instr := .uePacketReceive n (.reliable ord ep assoc op)
      let fits (op : UeOp) : Prop := s.waits.countP (fun w => match w.who with | .uePacketReceive p _ => p == n | _ => false) < 65536 ∧
        (ord = true → s.ueBehind n ep assoc (pkt op) = false)
      (ep < 4096 → assoc < 1024 →
        (1 ≤ data.length → data.length < 2 ^ 32 → (fits (.send va data) → writes (pkt (.send va data))) ∧
          (fits (.write va data) → writes (pkt (.write va data)))) ∧
        (1 ≤ k → k < 2 ^ 32 → fits (.read va k) → reads (pkt (.read va k))) ∧
        (k = 4 ∨ k = 8 → va % k = 0 → (fits (.amo f va k v) → atomic (pkt (.amo f va k v)) (.amo f v.toNat)) ∧
          (fits (.cas va k e v) → atomic (pkt (.cas va k e v)) (.cas e.toNat v.toNat)))) ∧
      (4096 ≤ ep ∨ 1024 ≤ assoc → ∀ op, exec (pkt op) s = .next s) ∧
      exec (.uePacketReceive n .unsupported) s = .next { s with ueDrop := mset 0 n (mget 0 n s.ueDrop + 1) s.ueDrop }) ∧
    (∀ who : Instr, s.packetBehind who = true ↔ ∃ l r w, s.waits = l ++ w :: r ∧ w.who = who ∧ (∀ y ∈ l, y.who ≠ who) ∧
      ∃ y ∈ l, y.packet = true ∧ y.paused = false) ∧
    (s.dmaMapped va data.length 4 = true → s.packetBehind (.inboundDma (.write va data)) = true →
      exec (.inboundDma (.write va data)) s = .next s) ∧
    (s.dmaMapped va data.length 4 = true → writes (.inboundDma (.write va data))) ∧
    (s.dmaMapped va k 8 = true → reads (.inboundDma (.read va k))) ∧
    (s.dmaMapped va data.length 4 = false → exec (.inboundDma (.write va data)) s = .next s.dropDma) ∧
    (s.dmaMapped va k 8 = false → exec (.inboundDma (.read va k)) s = .next s.dropDma) ∧
    (4 ≤ gen → gen ≤ 6 → lanes ∈ [1, 2, 4, 8] → exec (.storagePortTrain gen lanes) s =
      .next { s with storage := (min gen s.boot.storGen, min lanes s.boot.storLanes), boot := { s.boot with storFar := (gen, lanes) } }))

/-- R378 to R381: bring-up. A device reset whose record or first stage fails its check halts the boot controller with the step's code; a
good one puts the first stage at the start of service core 0's store and starts slot 0 there alone; a thermal trip halts with code 4; a
halted part takes no step but a reset; the power limit inserts idle cycles and its end removes them; MEXT appends a log entry until 64
stand there; an attestation is started once and ends. (That memories keep their bytes over a reset is the model's choice: entry 13.) -/
def Obligations.BringUp : Prop :=
  (∀ (s : State),
    let rec_ := rdBytes s.boot.record 0 1024
    let good := Config.rootSignatureOk rec_ (rdBytes s.boot.record 1024 29792) && recordOk s.boot.record
    let stage := rdBytes s.boot.stage 0 s.boot.stageLen
    let signed := Config.rootSignatureOk stage s.boot.stageSig
    let c := ckey (rdB s.boot.record 72).toNat 2048
    ∃ u : State, exec .deviceReset s = .next u ∧
      (s.boot.dirOk = false → u.boot.halt = some 1) ∧
      (s.boot.dirOk = true → good = false → u.boot.halt = some 2) ∧
      (s.boot.dirOk = true → good = true → signed = false → u.boot.halt = some 3) ∧
      (s.boot.dirOk = true → good = true → signed = true → u.boot.halt = none ∧
        u.boot.pkg = (rdB s.boot.record 72).toNat ∧ u.boot.power = rdLE s.boot.record 180 4 ∧ u.boot.log.length = 2 ∧
        (∀ i < s.boot.stageLen, i < 0x80000 → rdB (u.core c).mem i = rdB s.boot.stage i) ∧
        (∀ c' n, (u.thread? c' n).isSome = true ↔ c' = c ∧ n = 0) ∧ (u.thread c 0).pc = 0 ∧ isService c = true ∧ u.net = [] ∧ u.graphs = [])) ∧
  (∀ (s : State) (code : Nat), s.boot.halt = some code → (∀ ms, s.moves ≠ .event .deviceReset :: ms) → step s = .fault (.bootHalted code)) ∧
  (∀ (s : State) (ms : List Move), s.moves = .event .deviceReset :: ms → ∃ t : State, step s = .next t) ∧
  (∀ (s : State) (x : Dword),
    (∃ u : State, exec .thermalTrip s = .next u ∧ u.boot.halt = some 4 ∧ ∀ c n, u.thread? c n = none) ∧
    exec .powerLimit s = .next { s with idle := true } ∧ exec .powerBelowLimit s = .next { s with idle := false } ∧
    (s.boot.astat ≠ 1 → s.boot.log.length < 64 → ∃ u : State, exec (.mextWrite x) s = .next u ∧ ∃ e, u.boot.log = s.boot.log ++ [e] ∧
      u.boot.logFull = s.boot.logFull ∧ u.boot.mdig = s.boot.mdig) ∧
    (s.boot.astat ≠ 1 → 64 ≤ s.boot.log.length → ∃ u : State, exec (.mextWrite x) s = .next u ∧ u.boot.log = s.boot.log ∧
      u.boot.logFull = true) ∧
    (s.boot.astat ≠ 1 → ∃ u : State, exec (.asignWrite x) s = .next u ∧ u.boot.asign = x ∧ u.boot.astat = 1) ∧
    (s.boot.astat = 1 → ∃ u : State, exec .attestationDone s = .next u ∧ u.boot.astat = 2 ∧ u.boot.log = s.boot.log))
end

