-- ==== Sys2Proof/Laws/Bits.lean ====
section
/-! SUPPORT. The laws of the sparse stores: reading after writing, and the canonical form that every memory operation keeps. -/

namespace Sys2Proof.Machine

variable {α : Type}

/-! ## Reading a store -/

@[simp] theorem mget_nil (d : α) (k : Nat) : mget d k ([] : SMap α) = d := rfl
@[simp] theorem mfind_nil (k : Nat) : mfind k ([] : SMap α) = none := rfl

theorem mget_eq_mfind (d : α) (k : Nat) (m : SMap α) : mget d k m = (mfind k m).getD d := by
  induction m with
  | nil => rfl
  | cons e m ih => simp only [mget, mfind]; split <;> simp [*]

theorem mfind_mput_self (k : Nat) (v : α) (m : SMap α) : mfind k (mput k v m) = some v := by
  induction m with
  | nil => simp [mput, mfind]
  | cons e m ih =>
    simp only [mput]
    split
    · simp [mfind]
    · split
      · simp [mfind]
      · have : ¬ e.1 = k := by omega
        simp [mfind, this, ih]

theorem mfind_mput_ne {k j : Nat} (h : j ≠ k) (v : α) (m : SMap α) : mfind j (mput k v m) = mfind j m := by
  have h' : ¬ k = j := fun e => h e.symm
  induction m with
  | nil => simp [mput, mfind, h']
  | cons e m ih =>
    simp only [mput]
    split
    · simp [mfind, h']
    · split
      · have : ¬ e.1 = j := by omega
        simp [mfind, h', this]
      · simp [mfind, ih]

theorem mfind_mdel_self (k : Nat) (m : SMap α) : mfind k (mdel k m) = none := by
  induction m with
  | nil => rfl
  | cons e m ih =>
    simp only [mdel, List.filter_cons] at ih ⊢
    split
    · next h => simp at h; simp [mfind, h, ih]
    · exact ih

theorem mfind_mdel_ne {k j : Nat} (h : j ≠ k) (m : SMap α) : mfind j (mdel k m) = mfind j m := by
  induction m with
  | nil => rfl
  | cons e m ih =>
    simp only [mdel, List.filter_cons] at ih ⊢
    split
    · simp [mfind, ih]
    · next h' =>
      simp at h'
      have : ¬ e.1 = j := by omega
      simp [mfind, this, ih]

@[simp] theorem mget_mput_self (d : α) (k : Nat) (v : α) (m : SMap α) : mget d k (mput k v m) = v := by
  simp [mget_eq_mfind, mfind_mput_self]

theorem mget_mput_ne {k j : Nat} (h : j ≠ k) (d v : α) (m : SMap α) : mget d j (mput k v m) = mget d j m := by
  simp [mget_eq_mfind, mfind_mput_ne h]

@[simp] theorem mget_mset_self [DecidableEq α] (d : α) (k : Nat) (v : α) (m : SMap α) : mget d k (mset d k v m) = v := by
  unfold mset
  split
  · next h => simp [mget_eq_mfind, mfind_mdel_self, h]
  · simp

theorem mget_mset_ne [DecidableEq α] {k j : Nat} (h : j ≠ k) (d v : α) (m : SMap α) :
    mget d j (mset d k v m) = mget d j m := by
  unfold mset
  split
  · simp [mget_eq_mfind, mfind_mdel_ne h]
  · exact mget_mput_ne h d v m

/-! ## The canonical form -/

theorem mwf_cons [DecidableEq α] (d : α) (e : Nat × α) (m : SMap α) :
    mwf d (e :: m) = true ↔ e.2 ≠ d ∧ (∀ x ∈ m, e.1 < x.1) ∧ mwf d m = true := by
  simp [mwf, and_assoc]

theorem mem_mput {k : Nat} {v : α} {m : SMap α} {x : Nat × α} (h : x ∈ mput k v m) : x = (k, v) ∨ x ∈ m := by
  induction m with
  | nil => simp [mput] at h; exact .inl h
  | cons e m ih =>
    simp only [mput] at h
    split at h
    · simpa using h
    · split at h
      · simp at h; rcases h with h | h
        · exact .inl h
        · exact .inr (by simp [h])
      · simp at h
        rcases h with h | h
        · exact .inr (by simp [h])
        · rcases ih h with h | h
          · exact .inl h
          · exact .inr (by simp [h])

theorem mwf_mput [DecidableEq α] {d : α} {k : Nat} {v : α} {m : SMap α} (hv : v ≠ d) (h : mwf d m = true) :
    mwf d (mput k v m) = true := by
  induction m with
  | nil => simp [mput, mwf, hv]
  | cons e m ih =>
    obtain ⟨he, hm, hw⟩ := (mwf_cons d e m).1 h
    simp only [mput]
    split
    · next hk =>
      refine (mwf_cons ..).2 ⟨hv, ?_, h⟩
      intro x hx
      rcases List.mem_cons.1 hx with rfl | hx
      · exact hk
      · exact Nat.lt_trans hk (hm x hx)
    · split
      · next hk => exact (mwf_cons ..).2 ⟨hv, fun x hx => hk ▸ hm x hx, hw⟩
      · next h1 h2 =>
        refine (mwf_cons ..).2 ⟨he, ?_, ih hw⟩
        intro x hx
        rcases mem_mput hx with rfl | hx
        · simp; omega
        · exact hm x hx

theorem mwf_filter [DecidableEq α] {d : α} (f : Nat × α → Bool) {m : SMap α} (h : mwf d m = true) :
    mwf d (m.filter f) = true := by
  induction m with
  | nil => rfl
  | cons e m ih =>
    obtain ⟨he, hm, hw⟩ := (mwf_cons d e m).1 h
    simp only [List.filter_cons]
    split
    · exact (mwf_cons ..).2 ⟨he, fun x hx => hm x ((List.mem_filter.1 hx).1), ih hw⟩
    · exact ih hw

theorem mwf_mset [DecidableEq α] {d : α} {k : Nat} {v : α} {m : SMap α} (h : mwf d m = true) :
    mwf d (mset d k v m) = true := by
  unfold mset
  split
  · exact mwf_filter _ h
  · next hv => exact mwf_mput hv h

theorem mwf_mclear [DecidableEq α] {d : α} {lo hi : Nat} {m : SMap α} (h : mwf d m = true) :
    mwf d (mclear lo hi m) = true := mwf_filter _ h

/-! ## Byte memory -/

@[simp] theorem Memory.wf_nil : Memory.wf [] = true := rfl

@[simp] theorem rdB_wrB_self (m : Memory) (a : Nat) (b : Byte) : rdB (wrB m a b) a = b := mget_mset_self ..

theorem rdB_wrB_ne {a a' : Nat} (h : a' ≠ a) (m : Memory) (b : Byte) : rdB (wrB m a b) a' = rdB m a' :=
  mget_mset_ne h ..

theorem Memory.wf_wrB {m : Memory} (h : m.wf = true) (a : Nat) (b : Byte) : (wrB m a b).wf = true := mwf_mset h

theorem Memory.wf_wrLE {m : Memory} (h : m.wf = true) (a v n : Nat) : (wrLE m a v n).wf = true := by
  induction n generalizing m a v with
  | zero => exact h
  | succ n ih => exact ih (Memory.wf_wrB h a _) _ _

theorem Memory.wf_wrBytes {m : Memory} (h : m.wf = true) (a : Nat) (l : List Byte) : (wrBytes m a l).wf = true := by
  induction l generalizing m a with
  | nil => exact h
  | cons b l ih => exact ih (Memory.wf_wrB h a b) _

theorem Memory.wf_wrMasked {m : Memory} (h : m.wf = true) (a v mask n : Nat) : (wrMasked m a v mask n).wf = true := by
  induction n generalizing m a v mask with
  | zero => exact h
  | succ n ih =>
    simp only [wrMasked]
    split
    · exact ih (Memory.wf_wrB h a _) _ _ _
    · exact ih h _ _ _

theorem Memory.wf_mclear {m : Memory} (h : m.wf = true) (lo hi : Nat) : Memory.wf (mclear lo hi m) = true := mwf_mclear h

/-- A store of n bytes at a leaves every byte outside them alone. -/
theorem rdB_wrLE_out (m : Memory) (a v n x : Nat) (h : x < a ∨ a + n ≤ x) : rdB (wrLE m a v n) x = rdB m x := by
  induction n generalizing m a v with
  | zero => rfl
  | succ n ih =>
    rw [wrLE, ih _ _ _ (by omega)]
    exact rdB_wrB_ne (by omega) ..

theorem rdB_wrMasked_out (m : Memory) (a v mask n x : Nat) (h : x < a ∨ a + n ≤ x) :
    rdB (wrMasked m a v mask n) x = rdB m x := by
  induction n generalizing m a v mask with
  | zero => rfl
  | succ n ih =>
    simp only [wrMasked]
    rw [ih _ _ _ _ (by omega)]
    split
    · exact rdB_wrB_ne (by omega) ..
    · rfl

theorem rdB_wrBytes_out (m : Memory) (a : Nat) (l : List Byte) (x : Nat) (h : x < a ∨ a + l.length ≤ x) :
    rdB (wrBytes m a l) x = rdB m x := by
  induction l generalizing m a with
  | nil => rfl
  | cons b l ih =>
    simp only [List.length_cons] at h
    rw [wrBytes, ih _ _ (by omega)]
    exact rdB_wrB_ne (by omega) ..

theorem rdLE_congr (m m' : Memory) (a n : Nat) (h : ∀ i < n, rdB m (a + i) = rdB m' (a + i)) : rdLE m a n = rdLE m' a n := by
  induction n generalizing a with
  | zero => rfl
  | succ n ih =>
    simp only [rdLE]
    rw [ih (a + 1) (fun i hi => by have := h (i + 1) (by omega); rwa [show a + (i + 1) = a + 1 + i by omega] at this)]
    rw [show rdB m a = rdB m' a from h 0 (by omega)]

/-- A read of the n bytes just written gives the value's low n bytes. -/
theorem rdLE_wrLE (m : Memory) (a v n : Nat) : rdLE (wrLE m a v n) a n = v % 256 ^ n := by
  induction n generalizing m a v with
  | zero => simp [rdLE, Nat.mod_one]
  | succ n ih =>
    have h0 : rdB (wrLE m a v (n + 1)) a = BitVec.ofNat 8 v := by
      rw [wrLE, rdB_wrLE_out _ _ _ _ _ (by omega), rdB_wrB_self]
    simp only [rdLE]
    rw [h0, wrLE, ih]
    simp only [BitVec.toNat_ofNat]
    rw [show (2 : Nat) ^ 8 = 256 by decide, Nat.pow_succ, Nat.mul_comm (256 ^ n) 256, Nat.mod_mul]

@[simp] theorem vset_self {n : Nat} (v : Vector α n) (i : Fin n) (x : α) : (vset v i x)[i.val] = x := by simp [vset]

theorem vset_ne {n : Nat} (v : Vector α n) {i j : Fin n} (h : j ≠ i) (x : α) : (vset v i x)[j.val] = v[j.val] := by
  have : i.val ≠ j.val := fun e => h (Fin.ext e.symm)
  simp [vset, this]

end Sys2Proof.Machine
end

