-- ==== Sys2Proof/Laws/State.lean ====
section
/-! SUPPORT. What each update of the state leaves alone: one lemma for each field and update, all by unfolding the update, and the
reading of the part an update has written. -/

namespace Sys2Proof.Machine

/-! ## Replacing a part -/

@[simp] theorem State.setCore_counter (s : State) (c : Nat) (x : Core) : (s.setCore c x).counter = s.counter := rfl
@[simp] theorem State.setCore_clusters (s : State) (c : Nat) (x : Core) : (s.setCore c x).clusters = s.clusters := rfl
@[simp] theorem State.setCore_dies (s : State) (c : Nat) (x : Core) : (s.setCore c x).dies = s.dies := rfl
@[simp] theorem State.setCore_ports (s : State) (c : Nat) (x : Core) : (s.setCore c x).ports = s.ports := rfl
@[simp] theorem State.setCore_io (s : State) (c : Nat) (x : Core) : (s.setCore c x).io = s.io := rfl
@[simp] theorem State.setCore_boot (s : State) (c : Nat) (x : Core) : (s.setCore c x).boot = s.boot := rfl
@[simp] theorem State.setCore_kns (s : State) (c : Nat) (x : Core) : (s.setCore c x).kns = s.kns := rfl
@[simp] theorem State.setCore_bad (s : State) (c : Nat) (x : Core) : (s.setCore c x).bad = s.bad := rfl
@[simp] theorem State.setCore_lct (s : State) (c : Nat) (x : Core) : (s.setCore c x).lct = s.lct := rfl
@[simp] theorem State.setCore_graphs (s : State) (c : Nat) (x : Core) : (s.setCore c x).graphs = s.graphs := rfl
@[simp] theorem State.setCore_nfaults (s : State) (c : Nat) (x : Core) : (s.setCore c x).nfaults = s.nfaults := rfl
@[simp] theorem State.setCore_nextGid (s : State) (c : Nat) (x : Core) : (s.setCore c x).nextGid = s.nextGid := rfl
@[simp] theorem State.setCore_net (s : State) (c : Nat) (x : Core) : (s.setCore c x).net = s.net := rfl
@[simp] theorem State.setCore_copies (s : State) (c : Nat) (x : Core) : (s.setCore c x).copies = s.copies := rfl
@[simp] theorem State.setCore_posts (s : State) (c : Nat) (x : Core) : (s.setCore c x).posts = s.posts := rfl
@[simp] theorem State.setCore_spawns (s : State) (c : Nat) (x : Core) : (s.setCore c x).spawns = s.spawns := rfl
@[simp] theorem State.setCore_pkts (s : State) (c : Nat) (x : Core) : (s.setCore c x).pkts = s.pkts := rfl
@[simp] theorem State.setCore_wakes (s : State) (c : Nat) (x : Core) : (s.setCore c x).wakes = s.wakes := rfl
@[simp] theorem State.setCore_pageWakes (s : State) (c : Nat) (x : Core) : (s.setCore c x).pageWakes = s.pageWakes := rfl
@[simp] theorem State.setCore_rcmds (s : State) (c : Nat) (x : Core) : (s.setCore c x).rcmds = s.rcmds := rfl
@[simp] theorem State.setCore_scrubs (s : State) (c : Nat) (x : Core) : (s.setCore c x).scrubs = s.scrubs := rfl
@[simp] theorem State.setCore_stops (s : State) (c : Nat) (x : Core) : (s.setCore c x).stops = s.stops := rfl
@[simp] theorem State.setCore_sets (s : State) (c : Nat) (x : Core) : (s.setCore c x).sets = s.sets := rfl
@[simp] theorem State.setCore_rsave (s : State) (c : Nat) (x : Core) : (s.setCore c x).rsave = s.rsave := rfl
@[simp] theorem State.setCore_waits (s : State) (c : Nat) (x : Core) : (s.setCore c x).waits = s.waits := rfl
@[simp] theorem State.setCore_ueDrop (s : State) (c : Nat) (x : Core) : (s.setCore c x).ueDrop = s.ueDrop := rfl
@[simp] theorem State.setCore_storage (s : State) (c : Nat) (x : Core) : (s.setCore c x).storage = s.storage := rfl
@[simp] theorem State.setCore_idle (s : State) (c : Nat) (x : Core) : (s.setCore c x).idle = s.idle := rfl
@[simp] theorem State.setCore_resets (s : State) (c : Nat) (x : Core) : (s.setCore c x).resets = s.resets := rfl
@[simp] theorem State.setCore_cur (s : State) (c : Nat) (x : Core) : (s.setCore c x).cur = s.cur := rfl
@[simp] theorem State.setCore_moves (s : State) (c : Nat) (x : Core) : (s.setCore c x).moves = s.moves := rfl
@[simp] theorem State.setCore_nextUid (s : State) (c : Nat) (x : Core) : (s.setCore c x).nextUid = s.nextUid := rfl
@[simp] theorem State.setCore_free (s : State) (c : Nat) (x : Core) : (s.setCore c x).free = s.free := rfl
@[simp] theorem State.setCore_busRead (s : State) (c : Nat) (x : Core) : (s.setCore c x).busRead = s.busRead := rfl

@[simp] theorem State.setClu_counter (s : State) (k : Nat) (x : Cluster) : (s.setClu k x).counter = s.counter := rfl
@[simp] theorem State.setClu_cores (s : State) (k : Nat) (x : Cluster) : (s.setClu k x).cores = s.cores := rfl
@[simp] theorem State.setClu_dies (s : State) (k : Nat) (x : Cluster) : (s.setClu k x).dies = s.dies := rfl
@[simp] theorem State.setClu_ports (s : State) (k : Nat) (x : Cluster) : (s.setClu k x).ports = s.ports := rfl
@[simp] theorem State.setClu_io (s : State) (k : Nat) (x : Cluster) : (s.setClu k x).io = s.io := rfl
@[simp] theorem State.setClu_boot (s : State) (k : Nat) (x : Cluster) : (s.setClu k x).boot = s.boot := rfl
@[simp] theorem State.setClu_kns (s : State) (k : Nat) (x : Cluster) : (s.setClu k x).kns = s.kns := rfl
@[simp] theorem State.setClu_bad (s : State) (k : Nat) (x : Cluster) : (s.setClu k x).bad = s.bad := rfl
@[simp] theorem State.setClu_lct (s : State) (k : Nat) (x : Cluster) : (s.setClu k x).lct = s.lct := rfl
@[simp] theorem State.setClu_graphs (s : State) (k : Nat) (x : Cluster) : (s.setClu k x).graphs = s.graphs := rfl
@[simp] theorem State.setClu_nfaults (s : State) (k : Nat) (x : Cluster) : (s.setClu k x).nfaults = s.nfaults := rfl
@[simp] theorem State.setClu_nextGid (s : State) (k : Nat) (x : Cluster) : (s.setClu k x).nextGid = s.nextGid := rfl
@[simp] theorem State.setClu_net (s : State) (k : Nat) (x : Cluster) : (s.setClu k x).net = s.net := rfl
@[simp] theorem State.setClu_copies (s : State) (k : Nat) (x : Cluster) : (s.setClu k x).copies = s.copies := rfl
@[simp] theorem State.setClu_posts (s : State) (k : Nat) (x : Cluster) : (s.setClu k x).posts = s.posts := rfl
@[simp] theorem State.setClu_spawns (s : State) (k : Nat) (x : Cluster) : (s.setClu k x).spawns = s.spawns := rfl
@[simp] theorem State.setClu_pkts (s : State) (k : Nat) (x : Cluster) : (s.setClu k x).pkts = s.pkts := rfl
@[simp] theorem State.setClu_wakes (s : State) (k : Nat) (x : Cluster) : (s.setClu k x).wakes = s.wakes := rfl
@[simp] theorem State.setClu_pageWakes (s : State) (k : Nat) (x : Cluster) : (s.setClu k x).pageWakes = s.pageWakes := rfl
@[simp] theorem State.setClu_rcmds (s : State) (k : Nat) (x : Cluster) : (s.setClu k x).rcmds = s.rcmds := rfl
@[simp] theorem State.setClu_scrubs (s : State) (k : Nat) (x : Cluster) : (s.setClu k x).scrubs = s.scrubs := rfl
@[simp] theorem State.setClu_stops (s : State) (k : Nat) (x : Cluster) : (s.setClu k x).stops = s.stops := rfl
@[simp] theorem State.setClu_sets (s : State) (k : Nat) (x : Cluster) : (s.setClu k x).sets = s.sets := rfl
@[simp] theorem State.setClu_rsave (s : State) (k : Nat) (x : Cluster) : (s.setClu k x).rsave = s.rsave := rfl
@[simp] theorem State.setClu_waits (s : State) (k : Nat) (x : Cluster) : (s.setClu k x).waits = s.waits := rfl
@[simp] theorem State.setClu_ueDrop (s : State) (k : Nat) (x : Cluster) : (s.setClu k x).ueDrop = s.ueDrop := rfl
@[simp] theorem State.setClu_storage (s : State) (k : Nat) (x : Cluster) : (s.setClu k x).storage = s.storage := rfl
@[simp] theorem State.setClu_idle (s : State) (k : Nat) (x : Cluster) : (s.setClu k x).idle = s.idle := rfl
@[simp] theorem State.setClu_resets (s : State) (k : Nat) (x : Cluster) : (s.setClu k x).resets = s.resets := rfl
@[simp] theorem State.setClu_cur (s : State) (k : Nat) (x : Cluster) : (s.setClu k x).cur = s.cur := rfl
@[simp] theorem State.setClu_moves (s : State) (k : Nat) (x : Cluster) : (s.setClu k x).moves = s.moves := rfl
@[simp] theorem State.setClu_nextUid (s : State) (k : Nat) (x : Cluster) : (s.setClu k x).nextUid = s.nextUid := rfl
@[simp] theorem State.setClu_free (s : State) (k : Nat) (x : Cluster) : (s.setClu k x).free = s.free := rfl
@[simp] theorem State.setClu_busRead (s : State) (k : Nat) (x : Cluster) : (s.setClu k x).busRead = s.busRead := rfl

@[simp] theorem State.setDie_counter (s : State) (k : Nat) (x : Die) : (s.setDie k x).counter = s.counter := rfl
@[simp] theorem State.setDie_cores (s : State) (k : Nat) (x : Die) : (s.setDie k x).cores = s.cores := rfl
@[simp] theorem State.setDie_clusters (s : State) (k : Nat) (x : Die) : (s.setDie k x).clusters = s.clusters := rfl
@[simp] theorem State.setDie_ports (s : State) (k : Nat) (x : Die) : (s.setDie k x).ports = s.ports := rfl
@[simp] theorem State.setDie_io (s : State) (k : Nat) (x : Die) : (s.setDie k x).io = s.io := rfl
@[simp] theorem State.setDie_boot (s : State) (k : Nat) (x : Die) : (s.setDie k x).boot = s.boot := rfl
@[simp] theorem State.setDie_kns (s : State) (k : Nat) (x : Die) : (s.setDie k x).kns = s.kns := rfl
@[simp] theorem State.setDie_bad (s : State) (k : Nat) (x : Die) : (s.setDie k x).bad = s.bad := rfl
@[simp] theorem State.setDie_lct (s : State) (k : Nat) (x : Die) : (s.setDie k x).lct = s.lct := rfl
@[simp] theorem State.setDie_graphs (s : State) (k : Nat) (x : Die) : (s.setDie k x).graphs = s.graphs := rfl
@[simp] theorem State.setDie_nfaults (s : State) (k : Nat) (x : Die) : (s.setDie k x).nfaults = s.nfaults := rfl
@[simp] theorem State.setDie_nextGid (s : State) (k : Nat) (x : Die) : (s.setDie k x).nextGid = s.nextGid := rfl
@[simp] theorem State.setDie_net (s : State) (k : Nat) (x : Die) : (s.setDie k x).net = s.net := rfl
@[simp] theorem State.setDie_copies (s : State) (k : Nat) (x : Die) : (s.setDie k x).copies = s.copies := rfl
@[simp] theorem State.setDie_posts (s : State) (k : Nat) (x : Die) : (s.setDie k x).posts = s.posts := rfl
@[simp] theorem State.setDie_spawns (s : State) (k : Nat) (x : Die) : (s.setDie k x).spawns = s.spawns := rfl
@[simp] theorem State.setDie_pkts (s : State) (k : Nat) (x : Die) : (s.setDie k x).pkts = s.pkts := rfl
@[simp] theorem State.setDie_wakes (s : State) (k : Nat) (x : Die) : (s.setDie k x).wakes = s.wakes := rfl
@[simp] theorem State.setDie_pageWakes (s : State) (k : Nat) (x : Die) : (s.setDie k x).pageWakes = s.pageWakes := rfl
@[simp] theorem State.setDie_rcmds (s : State) (k : Nat) (x : Die) : (s.setDie k x).rcmds = s.rcmds := rfl
@[simp] theorem State.setDie_scrubs (s : State) (k : Nat) (x : Die) : (s.setDie k x).scrubs = s.scrubs := rfl
@[simp] theorem State.setDie_stops (s : State) (k : Nat) (x : Die) : (s.setDie k x).stops = s.stops := rfl
@[simp] theorem State.setDie_sets (s : State) (k : Nat) (x : Die) : (s.setDie k x).sets = s.sets := rfl
@[simp] theorem State.setDie_rsave (s : State) (k : Nat) (x : Die) : (s.setDie k x).rsave = s.rsave := rfl
@[simp] theorem State.setDie_waits (s : State) (k : Nat) (x : Die) : (s.setDie k x).waits = s.waits := rfl
@[simp] theorem State.setDie_ueDrop (s : State) (k : Nat) (x : Die) : (s.setDie k x).ueDrop = s.ueDrop := rfl
@[simp] theorem State.setDie_storage (s : State) (k : Nat) (x : Die) : (s.setDie k x).storage = s.storage := rfl
@[simp] theorem State.setDie_idle (s : State) (k : Nat) (x : Die) : (s.setDie k x).idle = s.idle := rfl
@[simp] theorem State.setDie_resets (s : State) (k : Nat) (x : Die) : (s.setDie k x).resets = s.resets := rfl
@[simp] theorem State.setDie_cur (s : State) (k : Nat) (x : Die) : (s.setDie k x).cur = s.cur := rfl
@[simp] theorem State.setDie_moves (s : State) (k : Nat) (x : Die) : (s.setDie k x).moves = s.moves := rfl
@[simp] theorem State.setDie_nextUid (s : State) (k : Nat) (x : Die) : (s.setDie k x).nextUid = s.nextUid := rfl
@[simp] theorem State.setDie_free (s : State) (k : Nat) (x : Die) : (s.setDie k x).free = s.free := rfl
@[simp] theorem State.setDie_busRead (s : State) (k : Nat) (x : Die) : (s.setDie k x).busRead = s.busRead := rfl

@[simp] theorem State.setPort_counter (s : State) (k : Nat) (x : Port) : (s.setPort k x).counter = s.counter := rfl
@[simp] theorem State.setPort_cores (s : State) (k : Nat) (x : Port) : (s.setPort k x).cores = s.cores := rfl
@[simp] theorem State.setPort_clusters (s : State) (k : Nat) (x : Port) : (s.setPort k x).clusters = s.clusters := rfl
@[simp] theorem State.setPort_dies (s : State) (k : Nat) (x : Port) : (s.setPort k x).dies = s.dies := rfl
@[simp] theorem State.setPort_io (s : State) (k : Nat) (x : Port) : (s.setPort k x).io = s.io := rfl
@[simp] theorem State.setPort_boot (s : State) (k : Nat) (x : Port) : (s.setPort k x).boot = s.boot := rfl
@[simp] theorem State.setPort_kns (s : State) (k : Nat) (x : Port) : (s.setPort k x).kns = s.kns := rfl
@[simp] theorem State.setPort_bad (s : State) (k : Nat) (x : Port) : (s.setPort k x).bad = s.bad := rfl
@[simp] theorem State.setPort_lct (s : State) (k : Nat) (x : Port) : (s.setPort k x).lct = s.lct := rfl
@[simp] theorem State.setPort_graphs (s : State) (k : Nat) (x : Port) : (s.setPort k x).graphs = s.graphs := rfl
@[simp] theorem State.setPort_nfaults (s : State) (k : Nat) (x : Port) : (s.setPort k x).nfaults = s.nfaults := rfl
@[simp] theorem State.setPort_nextGid (s : State) (k : Nat) (x : Port) : (s.setPort k x).nextGid = s.nextGid := rfl
@[simp] theorem State.setPort_net (s : State) (k : Nat) (x : Port) : (s.setPort k x).net = s.net := rfl
@[simp] theorem State.setPort_copies (s : State) (k : Nat) (x : Port) : (s.setPort k x).copies = s.copies := rfl
@[simp] theorem State.setPort_posts (s : State) (k : Nat) (x : Port) : (s.setPort k x).posts = s.posts := rfl
@[simp] theorem State.setPort_spawns (s : State) (k : Nat) (x : Port) : (s.setPort k x).spawns = s.spawns := rfl
@[simp] theorem State.setPort_pkts (s : State) (k : Nat) (x : Port) : (s.setPort k x).pkts = s.pkts := rfl
@[simp] theorem State.setPort_wakes (s : State) (k : Nat) (x : Port) : (s.setPort k x).wakes = s.wakes := rfl
@[simp] theorem State.setPort_pageWakes (s : State) (k : Nat) (x : Port) : (s.setPort k x).pageWakes = s.pageWakes := rfl
@[simp] theorem State.setPort_rcmds (s : State) (k : Nat) (x : Port) : (s.setPort k x).rcmds = s.rcmds := rfl
@[simp] theorem State.setPort_scrubs (s : State) (k : Nat) (x : Port) : (s.setPort k x).scrubs = s.scrubs := rfl
@[simp] theorem State.setPort_stops (s : State) (k : Nat) (x : Port) : (s.setPort k x).stops = s.stops := rfl
@[simp] theorem State.setPort_sets (s : State) (k : Nat) (x : Port) : (s.setPort k x).sets = s.sets := rfl
@[simp] theorem State.setPort_rsave (s : State) (k : Nat) (x : Port) : (s.setPort k x).rsave = s.rsave := rfl
@[simp] theorem State.setPort_waits (s : State) (k : Nat) (x : Port) : (s.setPort k x).waits = s.waits := rfl
@[simp] theorem State.setPort_ueDrop (s : State) (k : Nat) (x : Port) : (s.setPort k x).ueDrop = s.ueDrop := rfl
@[simp] theorem State.setPort_storage (s : State) (k : Nat) (x : Port) : (s.setPort k x).storage = s.storage := rfl
@[simp] theorem State.setPort_idle (s : State) (k : Nat) (x : Port) : (s.setPort k x).idle = s.idle := rfl
@[simp] theorem State.setPort_resets (s : State) (k : Nat) (x : Port) : (s.setPort k x).resets = s.resets := rfl
@[simp] theorem State.setPort_cur (s : State) (k : Nat) (x : Port) : (s.setPort k x).cur = s.cur := rfl
@[simp] theorem State.setPort_moves (s : State) (k : Nat) (x : Port) : (s.setPort k x).moves = s.moves := rfl
@[simp] theorem State.setPort_nextUid (s : State) (k : Nat) (x : Port) : (s.setPort k x).nextUid = s.nextUid := rfl
@[simp] theorem State.setPort_free (s : State) (k : Nat) (x : Port) : (s.setPort k x).free = s.free := rfl
@[simp] theorem State.setPort_busRead (s : State) (k : Nat) (x : Port) : (s.setPort k x).busRead = s.busRead := rfl

@[simp] theorem State.modIo_counter (s : State) (f : Io → Io) : (s.modIo f).counter = s.counter := rfl
@[simp] theorem State.modIo_cores (s : State) (f : Io → Io) : (s.modIo f).cores = s.cores := rfl
@[simp] theorem State.modIo_clusters (s : State) (f : Io → Io) : (s.modIo f).clusters = s.clusters := rfl
@[simp] theorem State.modIo_dies (s : State) (f : Io → Io) : (s.modIo f).dies = s.dies := rfl
@[simp] theorem State.modIo_ports (s : State) (f : Io → Io) : (s.modIo f).ports = s.ports := rfl
@[simp] theorem State.modIo_boot (s : State) (f : Io → Io) : (s.modIo f).boot = s.boot := rfl
@[simp] theorem State.modIo_kns (s : State) (f : Io → Io) : (s.modIo f).kns = s.kns := rfl
@[simp] theorem State.modIo_bad (s : State) (f : Io → Io) : (s.modIo f).bad = s.bad := rfl
@[simp] theorem State.modIo_lct (s : State) (f : Io → Io) : (s.modIo f).lct = s.lct := rfl
@[simp] theorem State.modIo_graphs (s : State) (f : Io → Io) : (s.modIo f).graphs = s.graphs := rfl
@[simp] theorem State.modIo_nfaults (s : State) (f : Io → Io) : (s.modIo f).nfaults = s.nfaults := rfl
@[simp] theorem State.modIo_nextGid (s : State) (f : Io → Io) : (s.modIo f).nextGid = s.nextGid := rfl
@[simp] theorem State.modIo_net (s : State) (f : Io → Io) : (s.modIo f).net = s.net := rfl
@[simp] theorem State.modIo_copies (s : State) (f : Io → Io) : (s.modIo f).copies = s.copies := rfl
@[simp] theorem State.modIo_posts (s : State) (f : Io → Io) : (s.modIo f).posts = s.posts := rfl
@[simp] theorem State.modIo_spawns (s : State) (f : Io → Io) : (s.modIo f).spawns = s.spawns := rfl
@[simp] theorem State.modIo_pkts (s : State) (f : Io → Io) : (s.modIo f).pkts = s.pkts := rfl
@[simp] theorem State.modIo_wakes (s : State) (f : Io → Io) : (s.modIo f).wakes = s.wakes := rfl
@[simp] theorem State.modIo_pageWakes (s : State) (f : Io → Io) : (s.modIo f).pageWakes = s.pageWakes := rfl
@[simp] theorem State.modIo_rcmds (s : State) (f : Io → Io) : (s.modIo f).rcmds = s.rcmds := rfl
@[simp] theorem State.modIo_scrubs (s : State) (f : Io → Io) : (s.modIo f).scrubs = s.scrubs := rfl
@[simp] theorem State.modIo_stops (s : State) (f : Io → Io) : (s.modIo f).stops = s.stops := rfl
@[simp] theorem State.modIo_sets (s : State) (f : Io → Io) : (s.modIo f).sets = s.sets := rfl
@[simp] theorem State.modIo_rsave (s : State) (f : Io → Io) : (s.modIo f).rsave = s.rsave := rfl
@[simp] theorem State.modIo_waits (s : State) (f : Io → Io) : (s.modIo f).waits = s.waits := rfl
@[simp] theorem State.modIo_ueDrop (s : State) (f : Io → Io) : (s.modIo f).ueDrop = s.ueDrop := rfl
@[simp] theorem State.modIo_storage (s : State) (f : Io → Io) : (s.modIo f).storage = s.storage := rfl
@[simp] theorem State.modIo_idle (s : State) (f : Io → Io) : (s.modIo f).idle = s.idle := rfl
@[simp] theorem State.modIo_resets (s : State) (f : Io → Io) : (s.modIo f).resets = s.resets := rfl
@[simp] theorem State.modIo_cur (s : State) (f : Io → Io) : (s.modIo f).cur = s.cur := rfl
@[simp] theorem State.modIo_moves (s : State) (f : Io → Io) : (s.modIo f).moves = s.moves := rfl
@[simp] theorem State.modIo_nextUid (s : State) (f : Io → Io) : (s.modIo f).nextUid = s.nextUid := rfl
@[simp] theorem State.modIo_free (s : State) (f : Io → Io) : (s.modIo f).free = s.free := rfl
@[simp] theorem State.modIo_busRead (s : State) (f : Io → Io) : (s.modIo f).busRead = s.busRead := rfl

@[simp] theorem State.modCore_counter (s : State) (c : Nat) (f : Core → Core) : (s.modCore c f).counter = s.counter := rfl
@[simp] theorem State.modCore_clusters (s : State) (c : Nat) (f : Core → Core) : (s.modCore c f).clusters = s.clusters := rfl
@[simp] theorem State.modCore_dies (s : State) (c : Nat) (f : Core → Core) : (s.modCore c f).dies = s.dies := rfl
@[simp] theorem State.modCore_ports (s : State) (c : Nat) (f : Core → Core) : (s.modCore c f).ports = s.ports := rfl
@[simp] theorem State.modCore_io (s : State) (c : Nat) (f : Core → Core) : (s.modCore c f).io = s.io := rfl
@[simp] theorem State.modCore_boot (s : State) (c : Nat) (f : Core → Core) : (s.modCore c f).boot = s.boot := rfl
@[simp] theorem State.modCore_kns (s : State) (c : Nat) (f : Core → Core) : (s.modCore c f).kns = s.kns := rfl
@[simp] theorem State.modCore_bad (s : State) (c : Nat) (f : Core → Core) : (s.modCore c f).bad = s.bad := rfl
@[simp] theorem State.modCore_lct (s : State) (c : Nat) (f : Core → Core) : (s.modCore c f).lct = s.lct := rfl
@[simp] theorem State.modCore_graphs (s : State) (c : Nat) (f : Core → Core) : (s.modCore c f).graphs = s.graphs := rfl
@[simp] theorem State.modCore_nfaults (s : State) (c : Nat) (f : Core → Core) : (s.modCore c f).nfaults = s.nfaults := rfl
@[simp] theorem State.modCore_nextGid (s : State) (c : Nat) (f : Core → Core) : (s.modCore c f).nextGid = s.nextGid := rfl
@[simp] theorem State.modCore_net (s : State) (c : Nat) (f : Core → Core) : (s.modCore c f).net = s.net := rfl
@[simp] theorem State.modCore_copies (s : State) (c : Nat) (f : Core → Core) : (s.modCore c f).copies = s.copies := rfl
@[simp] theorem State.modCore_posts (s : State) (c : Nat) (f : Core → Core) : (s.modCore c f).posts = s.posts := rfl
@[simp] theorem State.modCore_spawns (s : State) (c : Nat) (f : Core → Core) : (s.modCore c f).spawns = s.spawns := rfl
@[simp] theorem State.modCore_pkts (s : State) (c : Nat) (f : Core → Core) : (s.modCore c f).pkts = s.pkts := rfl
@[simp] theorem State.modCore_wakes (s : State) (c : Nat) (f : Core → Core) : (s.modCore c f).wakes = s.wakes := rfl
@[simp] theorem State.modCore_pageWakes (s : State) (c : Nat) (f : Core → Core) : (s.modCore c f).pageWakes = s.pageWakes := rfl
@[simp] theorem State.modCore_rcmds (s : State) (c : Nat) (f : Core → Core) : (s.modCore c f).rcmds = s.rcmds := rfl
@[simp] theorem State.modCore_scrubs (s : State) (c : Nat) (f : Core → Core) : (s.modCore c f).scrubs = s.scrubs := rfl
@[simp] theorem State.modCore_stops (s : State) (c : Nat) (f : Core → Core) : (s.modCore c f).stops = s.stops := rfl
@[simp] theorem State.modCore_sets (s : State) (c : Nat) (f : Core → Core) : (s.modCore c f).sets = s.sets := rfl
@[simp] theorem State.modCore_rsave (s : State) (c : Nat) (f : Core → Core) : (s.modCore c f).rsave = s.rsave := rfl
@[simp] theorem State.modCore_waits (s : State) (c : Nat) (f : Core → Core) : (s.modCore c f).waits = s.waits := rfl
@[simp] theorem State.modCore_ueDrop (s : State) (c : Nat) (f : Core → Core) : (s.modCore c f).ueDrop = s.ueDrop := rfl
@[simp] theorem State.modCore_storage (s : State) (c : Nat) (f : Core → Core) : (s.modCore c f).storage = s.storage := rfl
@[simp] theorem State.modCore_idle (s : State) (c : Nat) (f : Core → Core) : (s.modCore c f).idle = s.idle := rfl
@[simp] theorem State.modCore_resets (s : State) (c : Nat) (f : Core → Core) : (s.modCore c f).resets = s.resets := rfl
@[simp] theorem State.modCore_cur (s : State) (c : Nat) (f : Core → Core) : (s.modCore c f).cur = s.cur := rfl
@[simp] theorem State.modCore_moves (s : State) (c : Nat) (f : Core → Core) : (s.modCore c f).moves = s.moves := rfl
@[simp] theorem State.modCore_nextUid (s : State) (c : Nat) (f : Core → Core) : (s.modCore c f).nextUid = s.nextUid := rfl
@[simp] theorem State.modCore_free (s : State) (c : Nat) (f : Core → Core) : (s.modCore c f).free = s.free := rfl
@[simp] theorem State.modCore_busRead (s : State) (c : Nat) (f : Core → Core) : (s.modCore c f).busRead = s.busRead := rfl

@[simp] theorem State.setThread_counter (s : State) (c n : Nat) (t : Thread) : (s.setThread c n t).counter = s.counter := rfl
@[simp] theorem State.setThread_clusters (s : State) (c n : Nat) (t : Thread) : (s.setThread c n t).clusters = s.clusters := rfl
@[simp] theorem State.setThread_dies (s : State) (c n : Nat) (t : Thread) : (s.setThread c n t).dies = s.dies := rfl
@[simp] theorem State.setThread_ports (s : State) (c n : Nat) (t : Thread) : (s.setThread c n t).ports = s.ports := rfl
@[simp] theorem State.setThread_io (s : State) (c n : Nat) (t : Thread) : (s.setThread c n t).io = s.io := rfl
@[simp] theorem State.setThread_boot (s : State) (c n : Nat) (t : Thread) : (s.setThread c n t).boot = s.boot := rfl
@[simp] theorem State.setThread_kns (s : State) (c n : Nat) (t : Thread) : (s.setThread c n t).kns = s.kns := rfl
@[simp] theorem State.setThread_bad (s : State) (c n : Nat) (t : Thread) : (s.setThread c n t).bad = s.bad := rfl
@[simp] theorem State.setThread_lct (s : State) (c n : Nat) (t : Thread) : (s.setThread c n t).lct = s.lct := rfl
@[simp] theorem State.setThread_graphs (s : State) (c n : Nat) (t : Thread) : (s.setThread c n t).graphs = s.graphs := rfl
@[simp] theorem State.setThread_nfaults (s : State) (c n : Nat) (t : Thread) : (s.setThread c n t).nfaults = s.nfaults := rfl
@[simp] theorem State.setThread_nextGid (s : State) (c n : Nat) (t : Thread) : (s.setThread c n t).nextGid = s.nextGid := rfl
@[simp] theorem State.setThread_net (s : State) (c n : Nat) (t : Thread) : (s.setThread c n t).net = s.net := rfl
@[simp] theorem State.setThread_copies (s : State) (c n : Nat) (t : Thread) : (s.setThread c n t).copies = s.copies := rfl
@[simp] theorem State.setThread_posts (s : State) (c n : Nat) (t : Thread) : (s.setThread c n t).posts = s.posts := rfl
@[simp] theorem State.setThread_spawns (s : State) (c n : Nat) (t : Thread) : (s.setThread c n t).spawns = s.spawns := rfl
@[simp] theorem State.setThread_pkts (s : State) (c n : Nat) (t : Thread) : (s.setThread c n t).pkts = s.pkts := rfl
@[simp] theorem State.setThread_wakes (s : State) (c n : Nat) (t : Thread) : (s.setThread c n t).wakes = s.wakes := rfl
@[simp] theorem State.setThread_pageWakes (s : State) (c n : Nat) (t : Thread) : (s.setThread c n t).pageWakes = s.pageWakes := rfl
@[simp] theorem State.setThread_rcmds (s : State) (c n : Nat) (t : Thread) : (s.setThread c n t).rcmds = s.rcmds := rfl
@[simp] theorem State.setThread_scrubs (s : State) (c n : Nat) (t : Thread) : (s.setThread c n t).scrubs = s.scrubs := rfl
@[simp] theorem State.setThread_stops (s : State) (c n : Nat) (t : Thread) : (s.setThread c n t).stops = s.stops := rfl
@[simp] theorem State.setThread_sets (s : State) (c n : Nat) (t : Thread) : (s.setThread c n t).sets = s.sets := rfl
@[simp] theorem State.setThread_rsave (s : State) (c n : Nat) (t : Thread) : (s.setThread c n t).rsave = s.rsave := rfl
@[simp] theorem State.setThread_waits (s : State) (c n : Nat) (t : Thread) : (s.setThread c n t).waits = s.waits := rfl
@[simp] theorem State.setThread_ueDrop (s : State) (c n : Nat) (t : Thread) : (s.setThread c n t).ueDrop = s.ueDrop := rfl
@[simp] theorem State.setThread_storage (s : State) (c n : Nat) (t : Thread) : (s.setThread c n t).storage = s.storage := rfl
@[simp] theorem State.setThread_idle (s : State) (c n : Nat) (t : Thread) : (s.setThread c n t).idle = s.idle := rfl
@[simp] theorem State.setThread_resets (s : State) (c n : Nat) (t : Thread) : (s.setThread c n t).resets = s.resets := rfl
@[simp] theorem State.setThread_cur (s : State) (c n : Nat) (t : Thread) : (s.setThread c n t).cur = s.cur := rfl
@[simp] theorem State.setThread_moves (s : State) (c n : Nat) (t : Thread) : (s.setThread c n t).moves = s.moves := rfl
@[simp] theorem State.setThread_nextUid (s : State) (c n : Nat) (t : Thread) : (s.setThread c n t).nextUid = s.nextUid := rfl
@[simp] theorem State.setThread_free (s : State) (c n : Nat) (t : Thread) : (s.setThread c n t).free = s.free := rfl
@[simp] theorem State.setThread_busRead (s : State) (c n : Nat) (t : Thread) : (s.setThread c n t).busRead = s.busRead := rfl

@[simp] theorem State.modThread_counter (s : State) (c n : Nat) (g : Thread → Thread) : (s.modThread c n g).counter = s.counter := by
  unfold State.modThread; split <;> rfl
@[simp] theorem State.modThread_clusters (s : State) (c n : Nat) (g : Thread → Thread) : (s.modThread c n g).clusters = s.clusters := by
  unfold State.modThread; split <;> rfl
@[simp] theorem State.modThread_dies (s : State) (c n : Nat) (g : Thread → Thread) : (s.modThread c n g).dies = s.dies := by
  unfold State.modThread; split <;> rfl
@[simp] theorem State.modThread_ports (s : State) (c n : Nat) (g : Thread → Thread) : (s.modThread c n g).ports = s.ports := by
  unfold State.modThread; split <;> rfl
@[simp] theorem State.modThread_io (s : State) (c n : Nat) (g : Thread → Thread) : (s.modThread c n g).io = s.io := by
  unfold State.modThread; split <;> rfl
@[simp] theorem State.modThread_boot (s : State) (c n : Nat) (g : Thread → Thread) : (s.modThread c n g).boot = s.boot := by
  unfold State.modThread; split <;> rfl
@[simp] theorem State.modThread_kns (s : State) (c n : Nat) (g : Thread → Thread) : (s.modThread c n g).kns = s.kns := by
  unfold State.modThread; split <;> rfl
@[simp] theorem State.modThread_bad (s : State) (c n : Nat) (g : Thread → Thread) : (s.modThread c n g).bad = s.bad := by
  unfold State.modThread; split <;> rfl
@[simp] theorem State.modThread_lct (s : State) (c n : Nat) (g : Thread → Thread) : (s.modThread c n g).lct = s.lct := by
  unfold State.modThread; split <;> rfl
@[simp] theorem State.modThread_graphs (s : State) (c n : Nat) (g : Thread → Thread) : (s.modThread c n g).graphs = s.graphs := by
  unfold State.modThread; split <;> rfl
@[simp] theorem State.modThread_nfaults (s : State) (c n : Nat) (g : Thread → Thread) : (s.modThread c n g).nfaults = s.nfaults := by
  unfold State.modThread; split <;> rfl
@[simp] theorem State.modThread_nextGid (s : State) (c n : Nat) (g : Thread → Thread) : (s.modThread c n g).nextGid = s.nextGid := by
  unfold State.modThread; split <;> rfl
@[simp] theorem State.modThread_net (s : State) (c n : Nat) (g : Thread → Thread) : (s.modThread c n g).net = s.net := by
  unfold State.modThread; split <;> rfl
@[simp] theorem State.modThread_copies (s : State) (c n : Nat) (g : Thread → Thread) : (s.modThread c n g).copies = s.copies := by
  unfold State.modThread; split <;> rfl
@[simp] theorem State.modThread_posts (s : State) (c n : Nat) (g : Thread → Thread) : (s.modThread c n g).posts = s.posts := by
  unfold State.modThread; split <;> rfl
@[simp] theorem State.modThread_spawns (s : State) (c n : Nat) (g : Thread → Thread) : (s.modThread c n g).spawns = s.spawns := by
  unfold State.modThread; split <;> rfl
@[simp] theorem State.modThread_pkts (s : State) (c n : Nat) (g : Thread → Thread) : (s.modThread c n g).pkts = s.pkts := by
  unfold State.modThread; split <;> rfl
@[simp] theorem State.modThread_wakes (s : State) (c n : Nat) (g : Thread → Thread) : (s.modThread c n g).wakes = s.wakes := by
  unfold State.modThread; split <;> rfl
@[simp] theorem State.modThread_pageWakes (s : State) (c n : Nat) (g : Thread → Thread) : (s.modThread c n g).pageWakes = s.pageWakes := by
  unfold State.modThread; split <;> rfl
@[simp] theorem State.modThread_rcmds (s : State) (c n : Nat) (g : Thread → Thread) : (s.modThread c n g).rcmds = s.rcmds := by
  unfold State.modThread; split <;> rfl
@[simp] theorem State.modThread_scrubs (s : State) (c n : Nat) (g : Thread → Thread) : (s.modThread c n g).scrubs = s.scrubs := by
  unfold State.modThread; split <;> rfl
@[simp] theorem State.modThread_stops (s : State) (c n : Nat) (g : Thread → Thread) : (s.modThread c n g).stops = s.stops := by
  unfold State.modThread; split <;> rfl
@[simp] theorem State.modThread_sets (s : State) (c n : Nat) (g : Thread → Thread) : (s.modThread c n g).sets = s.sets := by
  unfold State.modThread; split <;> rfl
@[simp] theorem State.modThread_rsave (s : State) (c n : Nat) (g : Thread → Thread) : (s.modThread c n g).rsave = s.rsave := by
  unfold State.modThread; split <;> rfl
@[simp] theorem State.modThread_waits (s : State) (c n : Nat) (g : Thread → Thread) : (s.modThread c n g).waits = s.waits := by
  unfold State.modThread; split <;> rfl
@[simp] theorem State.modThread_ueDrop (s : State) (c n : Nat) (g : Thread → Thread) : (s.modThread c n g).ueDrop = s.ueDrop := by
  unfold State.modThread; split <;> rfl
@[simp] theorem State.modThread_storage (s : State) (c n : Nat) (g : Thread → Thread) : (s.modThread c n g).storage = s.storage := by
  unfold State.modThread; split <;> rfl
@[simp] theorem State.modThread_idle (s : State) (c n : Nat) (g : Thread → Thread) : (s.modThread c n g).idle = s.idle := by
  unfold State.modThread; split <;> rfl
@[simp] theorem State.modThread_resets (s : State) (c n : Nat) (g : Thread → Thread) : (s.modThread c n g).resets = s.resets := by
  unfold State.modThread; split <;> rfl
@[simp] theorem State.modThread_cur (s : State) (c n : Nat) (g : Thread → Thread) : (s.modThread c n g).cur = s.cur := by
  unfold State.modThread; split <;> rfl
@[simp] theorem State.modThread_moves (s : State) (c n : Nat) (g : Thread → Thread) : (s.modThread c n g).moves = s.moves := by
  unfold State.modThread; split <;> rfl
@[simp] theorem State.modThread_nextUid (s : State) (c n : Nat) (g : Thread → Thread) : (s.modThread c n g).nextUid = s.nextUid := by
  unfold State.modThread; split <;> rfl
@[simp] theorem State.modThread_free (s : State) (c n : Nat) (g : Thread → Thread) : (s.modThread c n g).free = s.free := by
  unfold State.modThread; split <;> rfl
@[simp] theorem State.modThread_busRead (s : State) (c n : Nat) (g : Thread → Thread) : (s.modThread c n g).busRead = s.busRead := by
  unfold State.modThread; split <;> rfl

@[simp] theorem State.modCth_counter (s : State) (g : Thread → Thread) : (s.modCth g).counter = s.counter := rfl
@[simp] theorem State.modCth_clusters (s : State) (g : Thread → Thread) : (s.modCth g).clusters = s.clusters := rfl
@[simp] theorem State.modCth_dies (s : State) (g : Thread → Thread) : (s.modCth g).dies = s.dies := rfl
@[simp] theorem State.modCth_ports (s : State) (g : Thread → Thread) : (s.modCth g).ports = s.ports := rfl
@[simp] theorem State.modCth_io (s : State) (g : Thread → Thread) : (s.modCth g).io = s.io := rfl
@[simp] theorem State.modCth_boot (s : State) (g : Thread → Thread) : (s.modCth g).boot = s.boot := rfl
@[simp] theorem State.modCth_kns (s : State) (g : Thread → Thread) : (s.modCth g).kns = s.kns := rfl
@[simp] theorem State.modCth_bad (s : State) (g : Thread → Thread) : (s.modCth g).bad = s.bad := rfl
@[simp] theorem State.modCth_lct (s : State) (g : Thread → Thread) : (s.modCth g).lct = s.lct := rfl
@[simp] theorem State.modCth_graphs (s : State) (g : Thread → Thread) : (s.modCth g).graphs = s.graphs := rfl
@[simp] theorem State.modCth_nfaults (s : State) (g : Thread → Thread) : (s.modCth g).nfaults = s.nfaults := rfl
@[simp] theorem State.modCth_nextGid (s : State) (g : Thread → Thread) : (s.modCth g).nextGid = s.nextGid := rfl
@[simp] theorem State.modCth_net (s : State) (g : Thread → Thread) : (s.modCth g).net = s.net := rfl
@[simp] theorem State.modCth_copies (s : State) (g : Thread → Thread) : (s.modCth g).copies = s.copies := rfl
@[simp] theorem State.modCth_posts (s : State) (g : Thread → Thread) : (s.modCth g).posts = s.posts := rfl
@[simp] theorem State.modCth_spawns (s : State) (g : Thread → Thread) : (s.modCth g).spawns = s.spawns := rfl
@[simp] theorem State.modCth_pkts (s : State) (g : Thread → Thread) : (s.modCth g).pkts = s.pkts := rfl
@[simp] theorem State.modCth_wakes (s : State) (g : Thread → Thread) : (s.modCth g).wakes = s.wakes := rfl
@[simp] theorem State.modCth_pageWakes (s : State) (g : Thread → Thread) : (s.modCth g).pageWakes = s.pageWakes := rfl
@[simp] theorem State.modCth_rcmds (s : State) (g : Thread → Thread) : (s.modCth g).rcmds = s.rcmds := rfl
@[simp] theorem State.modCth_scrubs (s : State) (g : Thread → Thread) : (s.modCth g).scrubs = s.scrubs := rfl
@[simp] theorem State.modCth_stops (s : State) (g : Thread → Thread) : (s.modCth g).stops = s.stops := rfl
@[simp] theorem State.modCth_sets (s : State) (g : Thread → Thread) : (s.modCth g).sets = s.sets := rfl
@[simp] theorem State.modCth_rsave (s : State) (g : Thread → Thread) : (s.modCth g).rsave = s.rsave := rfl
@[simp] theorem State.modCth_waits (s : State) (g : Thread → Thread) : (s.modCth g).waits = s.waits := rfl
@[simp] theorem State.modCth_ueDrop (s : State) (g : Thread → Thread) : (s.modCth g).ueDrop = s.ueDrop := rfl
@[simp] theorem State.modCth_storage (s : State) (g : Thread → Thread) : (s.modCth g).storage = s.storage := rfl
@[simp] theorem State.modCth_idle (s : State) (g : Thread → Thread) : (s.modCth g).idle = s.idle := rfl
@[simp] theorem State.modCth_resets (s : State) (g : Thread → Thread) : (s.modCth g).resets = s.resets := rfl
@[simp] theorem State.modCth_cur (s : State) (g : Thread → Thread) : (s.modCth g).cur = s.cur := rfl
@[simp] theorem State.modCth_moves (s : State) (g : Thread → Thread) : (s.modCth g).moves = s.moves := rfl
@[simp] theorem State.modCth_nextUid (s : State) (g : Thread → Thread) : (s.modCth g).nextUid = s.nextUid := rfl
@[simp] theorem State.modCth_free (s : State) (g : Thread → Thread) : (s.modCth g).free = s.free := rfl
@[simp] theorem State.modCth_busRead (s : State) (g : Thread → Thread) : (s.modCth g).busRead = s.busRead := rfl

/-! ## Writing a register, going on -/

@[simp] theorem writeG_counter (s : State) (r : Fin 24) (x : Dword) : (writeG s r x).counter = s.counter := rfl
@[simp] theorem writeG_clusters (s : State) (r : Fin 24) (x : Dword) : (writeG s r x).clusters = s.clusters := rfl
@[simp] theorem writeG_dies (s : State) (r : Fin 24) (x : Dword) : (writeG s r x).dies = s.dies := rfl
@[simp] theorem writeG_ports (s : State) (r : Fin 24) (x : Dword) : (writeG s r x).ports = s.ports := rfl
@[simp] theorem writeG_io (s : State) (r : Fin 24) (x : Dword) : (writeG s r x).io = s.io := rfl
@[simp] theorem writeG_boot (s : State) (r : Fin 24) (x : Dword) : (writeG s r x).boot = s.boot := rfl
@[simp] theorem writeG_kns (s : State) (r : Fin 24) (x : Dword) : (writeG s r x).kns = s.kns := rfl
@[simp] theorem writeG_bad (s : State) (r : Fin 24) (x : Dword) : (writeG s r x).bad = s.bad := rfl
@[simp] theorem writeG_lct (s : State) (r : Fin 24) (x : Dword) : (writeG s r x).lct = s.lct := rfl
@[simp] theorem writeG_graphs (s : State) (r : Fin 24) (x : Dword) : (writeG s r x).graphs = s.graphs := rfl
@[simp] theorem writeG_nfaults (s : State) (r : Fin 24) (x : Dword) : (writeG s r x).nfaults = s.nfaults := rfl
@[simp] theorem writeG_nextGid (s : State) (r : Fin 24) (x : Dword) : (writeG s r x).nextGid = s.nextGid := rfl
@[simp] theorem writeG_net (s : State) (r : Fin 24) (x : Dword) : (writeG s r x).net = s.net := rfl
@[simp] theorem writeG_copies (s : State) (r : Fin 24) (x : Dword) : (writeG s r x).copies = s.copies := rfl
@[simp] theorem writeG_posts (s : State) (r : Fin 24) (x : Dword) : (writeG s r x).posts = s.posts := rfl
@[simp] theorem writeG_spawns (s : State) (r : Fin 24) (x : Dword) : (writeG s r x).spawns = s.spawns := rfl
@[simp] theorem writeG_pkts (s : State) (r : Fin 24) (x : Dword) : (writeG s r x).pkts = s.pkts := rfl
@[simp] theorem writeG_wakes (s : State) (r : Fin 24) (x : Dword) : (writeG s r x).wakes = s.wakes := rfl
@[simp] theorem writeG_pageWakes (s : State) (r : Fin 24) (x : Dword) : (writeG s r x).pageWakes = s.pageWakes := rfl
@[simp] theorem writeG_rcmds (s : State) (r : Fin 24) (x : Dword) : (writeG s r x).rcmds = s.rcmds := rfl
@[simp] theorem writeG_scrubs (s : State) (r : Fin 24) (x : Dword) : (writeG s r x).scrubs = s.scrubs := rfl
@[simp] theorem writeG_stops (s : State) (r : Fin 24) (x : Dword) : (writeG s r x).stops = s.stops := rfl
@[simp] theorem writeG_sets (s : State) (r : Fin 24) (x : Dword) : (writeG s r x).sets = s.sets := rfl
@[simp] theorem writeG_rsave (s : State) (r : Fin 24) (x : Dword) : (writeG s r x).rsave = s.rsave := rfl
@[simp] theorem writeG_waits (s : State) (r : Fin 24) (x : Dword) : (writeG s r x).waits = s.waits := rfl
@[simp] theorem writeG_ueDrop (s : State) (r : Fin 24) (x : Dword) : (writeG s r x).ueDrop = s.ueDrop := rfl
@[simp] theorem writeG_storage (s : State) (r : Fin 24) (x : Dword) : (writeG s r x).storage = s.storage := rfl
@[simp] theorem writeG_idle (s : State) (r : Fin 24) (x : Dword) : (writeG s r x).idle = s.idle := rfl
@[simp] theorem writeG_resets (s : State) (r : Fin 24) (x : Dword) : (writeG s r x).resets = s.resets := rfl
@[simp] theorem writeG_cur (s : State) (r : Fin 24) (x : Dword) : (writeG s r x).cur = s.cur := rfl
@[simp] theorem writeG_moves (s : State) (r : Fin 24) (x : Dword) : (writeG s r x).moves = s.moves := rfl
@[simp] theorem writeG_nextUid (s : State) (r : Fin 24) (x : Dword) : (writeG s r x).nextUid = s.nextUid := rfl
@[simp] theorem writeG_free (s : State) (r : Fin 24) (x : Dword) : (writeG s r x).free = s.free := rfl
@[simp] theorem writeG_busRead (s : State) (r : Fin 24) (x : Dword) : (writeG s r x).busRead = s.busRead := rfl

@[simp] theorem writeV_counter (s : State) (r : Fin 8) (x : Vec) : (writeV s r x).counter = s.counter := rfl
@[simp] theorem writeV_clusters (s : State) (r : Fin 8) (x : Vec) : (writeV s r x).clusters = s.clusters := rfl
@[simp] theorem writeV_dies (s : State) (r : Fin 8) (x : Vec) : (writeV s r x).dies = s.dies := rfl
@[simp] theorem writeV_ports (s : State) (r : Fin 8) (x : Vec) : (writeV s r x).ports = s.ports := rfl
@[simp] theorem writeV_io (s : State) (r : Fin 8) (x : Vec) : (writeV s r x).io = s.io := rfl
@[simp] theorem writeV_boot (s : State) (r : Fin 8) (x : Vec) : (writeV s r x).boot = s.boot := rfl
@[simp] theorem writeV_kns (s : State) (r : Fin 8) (x : Vec) : (writeV s r x).kns = s.kns := rfl
@[simp] theorem writeV_bad (s : State) (r : Fin 8) (x : Vec) : (writeV s r x).bad = s.bad := rfl
@[simp] theorem writeV_lct (s : State) (r : Fin 8) (x : Vec) : (writeV s r x).lct = s.lct := rfl
@[simp] theorem writeV_graphs (s : State) (r : Fin 8) (x : Vec) : (writeV s r x).graphs = s.graphs := rfl
@[simp] theorem writeV_nfaults (s : State) (r : Fin 8) (x : Vec) : (writeV s r x).nfaults = s.nfaults := rfl
@[simp] theorem writeV_nextGid (s : State) (r : Fin 8) (x : Vec) : (writeV s r x).nextGid = s.nextGid := rfl
@[simp] theorem writeV_net (s : State) (r : Fin 8) (x : Vec) : (writeV s r x).net = s.net := rfl
@[simp] theorem writeV_copies (s : State) (r : Fin 8) (x : Vec) : (writeV s r x).copies = s.copies := rfl
@[simp] theorem writeV_posts (s : State) (r : Fin 8) (x : Vec) : (writeV s r x).posts = s.posts := rfl
@[simp] theorem writeV_spawns (s : State) (r : Fin 8) (x : Vec) : (writeV s r x).spawns = s.spawns := rfl
@[simp] theorem writeV_pkts (s : State) (r : Fin 8) (x : Vec) : (writeV s r x).pkts = s.pkts := rfl
@[simp] theorem writeV_wakes (s : State) (r : Fin 8) (x : Vec) : (writeV s r x).wakes = s.wakes := rfl
@[simp] theorem writeV_pageWakes (s : State) (r : Fin 8) (x : Vec) : (writeV s r x).pageWakes = s.pageWakes := rfl
@[simp] theorem writeV_rcmds (s : State) (r : Fin 8) (x : Vec) : (writeV s r x).rcmds = s.rcmds := rfl
@[simp] theorem writeV_scrubs (s : State) (r : Fin 8) (x : Vec) : (writeV s r x).scrubs = s.scrubs := rfl
@[simp] theorem writeV_stops (s : State) (r : Fin 8) (x : Vec) : (writeV s r x).stops = s.stops := rfl
@[simp] theorem writeV_sets (s : State) (r : Fin 8) (x : Vec) : (writeV s r x).sets = s.sets := rfl
@[simp] theorem writeV_rsave (s : State) (r : Fin 8) (x : Vec) : (writeV s r x).rsave = s.rsave := rfl
@[simp] theorem writeV_waits (s : State) (r : Fin 8) (x : Vec) : (writeV s r x).waits = s.waits := rfl
@[simp] theorem writeV_ueDrop (s : State) (r : Fin 8) (x : Vec) : (writeV s r x).ueDrop = s.ueDrop := rfl
@[simp] theorem writeV_storage (s : State) (r : Fin 8) (x : Vec) : (writeV s r x).storage = s.storage := rfl
@[simp] theorem writeV_idle (s : State) (r : Fin 8) (x : Vec) : (writeV s r x).idle = s.idle := rfl
@[simp] theorem writeV_resets (s : State) (r : Fin 8) (x : Vec) : (writeV s r x).resets = s.resets := rfl
@[simp] theorem writeV_cur (s : State) (r : Fin 8) (x : Vec) : (writeV s r x).cur = s.cur := rfl
@[simp] theorem writeV_moves (s : State) (r : Fin 8) (x : Vec) : (writeV s r x).moves = s.moves := rfl
@[simp] theorem writeV_nextUid (s : State) (r : Fin 8) (x : Vec) : (writeV s r x).nextUid = s.nextUid := rfl
@[simp] theorem writeV_free (s : State) (r : Fin 8) (x : Vec) : (writeV s r x).free = s.free := rfl
@[simp] theorem writeV_busRead (s : State) (r : Fin 8) (x : Vec) : (writeV s r x).busRead = s.busRead := rfl

@[simp] theorem writeK_counter (s : State) (r : Fin 8) (x : Dword) : (writeK s r x).counter = s.counter := rfl
@[simp] theorem writeK_clusters (s : State) (r : Fin 8) (x : Dword) : (writeK s r x).clusters = s.clusters := rfl
@[simp] theorem writeK_dies (s : State) (r : Fin 8) (x : Dword) : (writeK s r x).dies = s.dies := rfl
@[simp] theorem writeK_ports (s : State) (r : Fin 8) (x : Dword) : (writeK s r x).ports = s.ports := rfl
@[simp] theorem writeK_io (s : State) (r : Fin 8) (x : Dword) : (writeK s r x).io = s.io := rfl
@[simp] theorem writeK_boot (s : State) (r : Fin 8) (x : Dword) : (writeK s r x).boot = s.boot := rfl
@[simp] theorem writeK_kns (s : State) (r : Fin 8) (x : Dword) : (writeK s r x).kns = s.kns := rfl
@[simp] theorem writeK_bad (s : State) (r : Fin 8) (x : Dword) : (writeK s r x).bad = s.bad := rfl
@[simp] theorem writeK_lct (s : State) (r : Fin 8) (x : Dword) : (writeK s r x).lct = s.lct := rfl
@[simp] theorem writeK_graphs (s : State) (r : Fin 8) (x : Dword) : (writeK s r x).graphs = s.graphs := rfl
@[simp] theorem writeK_nfaults (s : State) (r : Fin 8) (x : Dword) : (writeK s r x).nfaults = s.nfaults := rfl
@[simp] theorem writeK_nextGid (s : State) (r : Fin 8) (x : Dword) : (writeK s r x).nextGid = s.nextGid := rfl
@[simp] theorem writeK_net (s : State) (r : Fin 8) (x : Dword) : (writeK s r x).net = s.net := rfl
@[simp] theorem writeK_copies (s : State) (r : Fin 8) (x : Dword) : (writeK s r x).copies = s.copies := rfl
@[simp] theorem writeK_posts (s : State) (r : Fin 8) (x : Dword) : (writeK s r x).posts = s.posts := rfl
@[simp] theorem writeK_spawns (s : State) (r : Fin 8) (x : Dword) : (writeK s r x).spawns = s.spawns := rfl
@[simp] theorem writeK_pkts (s : State) (r : Fin 8) (x : Dword) : (writeK s r x).pkts = s.pkts := rfl
@[simp] theorem writeK_wakes (s : State) (r : Fin 8) (x : Dword) : (writeK s r x).wakes = s.wakes := rfl
@[simp] theorem writeK_pageWakes (s : State) (r : Fin 8) (x : Dword) : (writeK s r x).pageWakes = s.pageWakes := rfl
@[simp] theorem writeK_rcmds (s : State) (r : Fin 8) (x : Dword) : (writeK s r x).rcmds = s.rcmds := rfl
@[simp] theorem writeK_scrubs (s : State) (r : Fin 8) (x : Dword) : (writeK s r x).scrubs = s.scrubs := rfl
@[simp] theorem writeK_stops (s : State) (r : Fin 8) (x : Dword) : (writeK s r x).stops = s.stops := rfl
@[simp] theorem writeK_sets (s : State) (r : Fin 8) (x : Dword) : (writeK s r x).sets = s.sets := rfl
@[simp] theorem writeK_rsave (s : State) (r : Fin 8) (x : Dword) : (writeK s r x).rsave = s.rsave := rfl
@[simp] theorem writeK_waits (s : State) (r : Fin 8) (x : Dword) : (writeK s r x).waits = s.waits := rfl
@[simp] theorem writeK_ueDrop (s : State) (r : Fin 8) (x : Dword) : (writeK s r x).ueDrop = s.ueDrop := rfl
@[simp] theorem writeK_storage (s : State) (r : Fin 8) (x : Dword) : (writeK s r x).storage = s.storage := rfl
@[simp] theorem writeK_idle (s : State) (r : Fin 8) (x : Dword) : (writeK s r x).idle = s.idle := rfl
@[simp] theorem writeK_resets (s : State) (r : Fin 8) (x : Dword) : (writeK s r x).resets = s.resets := rfl
@[simp] theorem writeK_cur (s : State) (r : Fin 8) (x : Dword) : (writeK s r x).cur = s.cur := rfl
@[simp] theorem writeK_moves (s : State) (r : Fin 8) (x : Dword) : (writeK s r x).moves = s.moves := rfl
@[simp] theorem writeK_nextUid (s : State) (r : Fin 8) (x : Dword) : (writeK s r x).nextUid = s.nextUid := rfl
@[simp] theorem writeK_free (s : State) (r : Fin 8) (x : Dword) : (writeK s r x).free = s.free := rfl
@[simp] theorem writeK_busRead (s : State) (r : Fin 8) (x : Dword) : (writeK s r x).busRead = s.busRead := rfl

@[simp] theorem State.advance_counter (s : State) (t : Option Dword) : (s.advance t).counter = s.counter := rfl
@[simp] theorem State.advance_clusters (s : State) (t : Option Dword) : (s.advance t).clusters = s.clusters := rfl
@[simp] theorem State.advance_dies (s : State) (t : Option Dword) : (s.advance t).dies = s.dies := rfl
@[simp] theorem State.advance_ports (s : State) (t : Option Dword) : (s.advance t).ports = s.ports := rfl
@[simp] theorem State.advance_io (s : State) (t : Option Dword) : (s.advance t).io = s.io := rfl
@[simp] theorem State.advance_boot (s : State) (t : Option Dword) : (s.advance t).boot = s.boot := rfl
@[simp] theorem State.advance_kns (s : State) (t : Option Dword) : (s.advance t).kns = s.kns := rfl
@[simp] theorem State.advance_bad (s : State) (t : Option Dword) : (s.advance t).bad = s.bad := rfl
@[simp] theorem State.advance_lct (s : State) (t : Option Dword) : (s.advance t).lct = s.lct := rfl
@[simp] theorem State.advance_graphs (s : State) (t : Option Dword) : (s.advance t).graphs = s.graphs := rfl
@[simp] theorem State.advance_nfaults (s : State) (t : Option Dword) : (s.advance t).nfaults = s.nfaults := rfl
@[simp] theorem State.advance_nextGid (s : State) (t : Option Dword) : (s.advance t).nextGid = s.nextGid := rfl
@[simp] theorem State.advance_net (s : State) (t : Option Dword) : (s.advance t).net = s.net := rfl
@[simp] theorem State.advance_copies (s : State) (t : Option Dword) : (s.advance t).copies = s.copies := rfl
@[simp] theorem State.advance_posts (s : State) (t : Option Dword) : (s.advance t).posts = s.posts := rfl
@[simp] theorem State.advance_spawns (s : State) (t : Option Dword) : (s.advance t).spawns = s.spawns := rfl
@[simp] theorem State.advance_pkts (s : State) (t : Option Dword) : (s.advance t).pkts = s.pkts := rfl
@[simp] theorem State.advance_wakes (s : State) (t : Option Dword) : (s.advance t).wakes = s.wakes := rfl
@[simp] theorem State.advance_pageWakes (s : State) (t : Option Dword) : (s.advance t).pageWakes = s.pageWakes := rfl
@[simp] theorem State.advance_rcmds (s : State) (t : Option Dword) : (s.advance t).rcmds = s.rcmds := rfl
@[simp] theorem State.advance_scrubs (s : State) (t : Option Dword) : (s.advance t).scrubs = s.scrubs := rfl
@[simp] theorem State.advance_stops (s : State) (t : Option Dword) : (s.advance t).stops = s.stops := rfl
@[simp] theorem State.advance_sets (s : State) (t : Option Dword) : (s.advance t).sets = s.sets := rfl
@[simp] theorem State.advance_rsave (s : State) (t : Option Dword) : (s.advance t).rsave = s.rsave := rfl
@[simp] theorem State.advance_waits (s : State) (t : Option Dword) : (s.advance t).waits = s.waits := rfl
@[simp] theorem State.advance_ueDrop (s : State) (t : Option Dword) : (s.advance t).ueDrop = s.ueDrop := rfl
@[simp] theorem State.advance_storage (s : State) (t : Option Dword) : (s.advance t).storage = s.storage := rfl
@[simp] theorem State.advance_idle (s : State) (t : Option Dword) : (s.advance t).idle = s.idle := rfl
@[simp] theorem State.advance_resets (s : State) (t : Option Dword) : (s.advance t).resets = s.resets := rfl
@[simp] theorem State.advance_cur (s : State) (t : Option Dword) : (s.advance t).cur = s.cur := rfl
@[simp] theorem State.advance_moves (s : State) (t : Option Dword) : (s.advance t).moves = s.moves := rfl
@[simp] theorem State.advance_nextUid (s : State) (t : Option Dword) : (s.advance t).nextUid = s.nextUid := rfl
@[simp] theorem State.advance_free (s : State) (t : Option Dword) : (s.advance t).free = s.free := rfl
@[simp] theorem State.advance_busRead (s : State) (t : Option Dword) : (s.advance t).busRead = s.busRead := rfl

/-! ## Reading the part that was written -/

@[simp] theorem State.core_setCore (s : State) (c : Nat) (x : Core) : (s.setCore c x).core c = x := mget_mset_self ..
theorem State.core_setCore_ne (s : State) {c c' : Nat} (h : c' ≠ c) (x : Core) : (s.setCore c x).core c' = s.core c' :=
  mget_mset_ne h ..
@[simp] theorem State.core_modCore (s : State) (c : Nat) (f : Core → Core) : (s.modCore c f).core c = f (s.core c) :=
  mget_mset_self ..
theorem State.core_modCore_ne (s : State) {c c' : Nat} (h : c' ≠ c) (f : Core → Core) : (s.modCore c f).core c' = s.core c' :=
  mget_mset_ne h ..
@[simp] theorem State.clu_setClu (s : State) (k : Nat) (x : Cluster) : (s.setClu k x).clu k = x := mget_mset_self ..
@[simp] theorem State.clu_modClu (s : State) (k : Nat) (f : Cluster → Cluster) : (s.modClu k f).clu k = f (s.clu k) :=
  mget_mset_self ..
theorem State.clu_modClu_ne (s : State) {k k' : Nat} (h : k' ≠ k) (f : Cluster → Cluster) :
    (s.modClu k f).clu k' = s.clu k' := mget_mset_ne h ..
@[simp] theorem State.die_modDie (s : State) (k : Nat) (f : Die → Die) : (s.modDie k f).die k = f (s.die k) :=
  mget_mset_self ..
@[simp] theorem State.port_modPort (s : State) (k : Nat) (f : Port → Port) : (s.modPort k f).port k = f (s.port k) :=
  mget_mset_self ..

@[simp] theorem State.setThread_core (s : State) (c n : Nat) (t : Thread) :
    (s.setThread c n t).core c = { s.core c with slots := mput n t (s.core c).slots } := by
  simp [State.setThread]
theorem State.setThread_core_ne (s : State) {c c' : Nat} (h : c' ≠ c) (n : Nat) (t : Thread) :
    (s.setThread c n t).core c' = s.core c' := State.core_modCore_ne s h _

@[simp] theorem State.thread?_setThread (s : State) (c n : Nat) (t : Thread) : (s.setThread c n t).thread? c n = some t := by
  simp [State.thread?, mfind_mput_self]
@[simp] theorem State.thread_setThread (s : State) (c n : Nat) (t : Thread) : (s.setThread c n t).thread c n = t := by
  simp [State.thread]
theorem State.thread_setThread_ne (s : State) {c n c' n' : Nat} (h : c' ≠ c ∨ n' ≠ n) (t : Thread) :
    (s.setThread c n t).thread c' n' = s.thread c' n' := by
  unfold State.thread State.thread?
  by_cases hc : c' = c
  · subst hc
    have hn : n' ≠ n := h.resolve_left (fun e => e rfl)
    simp [mfind_mput_ne hn]
  · rw [State.setThread_core_ne s hc]
@[simp] theorem State.modThread_thread (s : State) (c n : Nat) (f : Thread → Thread) (h : (s.thread? c n).isSome) :
    (s.modThread c n f).thread c n = f (s.thread c n) := by
  unfold State.modThread
  cases ht : s.thread? c n with
  | none => simp [ht] at h
  | some t => simp [State.thread, ht]

@[simp] theorem State.cth_modCth (s : State) (f : Thread → Thread) : (s.modCth f).cth = f s.cth := by
  simp [State.modCth, State.setCth, State.cth]
/-- The thread being issued keeps its core's store, queues and control registers under a change of its own registers. -/
theorem State.modCth_core (s : State) (f : Thread → Thread) :
    (s.modCth f).core s.cur.core = { s.core s.cur.core with slots := mput s.cur.slot (f s.cth) (s.core s.cur.core).slots } := by
  simp [State.modCth, State.setCth]
theorem State.modCth_core_ne (s : State) (f : Thread → Thread) {c : Nat} (h : c ≠ s.cur.core) :
    (s.modCth f).core c = s.core c := by
  simp [State.modCth, State.setCth, State.setThread_core_ne s h]
@[simp] theorem State.modCth_mem (s : State) (f : Thread → Thread) (c : Nat) : ((s.modCth f).core c).mem = (s.core c).mem := by
  by_cases h : c = s.cur.core
  · subst h; rw [State.modCth_core]
  · rw [State.modCth_core_ne s f h]
@[simp] theorem State.modCth_tag (s : State) (f : Thread → Thread) (c : Nat) : ((s.modCth f).core c).tag = (s.core c).tag := by
  by_cases h : c = s.cur.core
  · subst h; rw [State.modCth_core]
  · rw [State.modCth_core_ne s f h]
@[simp] theorem State.ctag_modCth (s : State) (f : Thread → Thread) : (s.modCth f).ctag = s.ctag := by
  simp [State.ctag]
@[simp] theorem State.nextPc_modCth (s : State) (f : Thread → Thread) : (s.modCth f).nextPc = s.nextPc := rfl

@[simp] theorem writeG_cth (s : State) (r : Fin 24) (x : Dword) : (writeG s r x).cth = { s.cth with g := vset s.cth.g r x } := by
  simp [writeG]
@[simp] theorem writeV_cth (s : State) (r : Fin 8) (x : Vec) : (writeV s r x).cth = { s.cth with v := vset s.cth.v r x } := by
  simp [writeV]
@[simp] theorem writeK_cth (s : State) (r : Fin 8) (x : Dword) : (writeK s r x).cth = { s.cth with k := vset s.cth.k r x } := by
  simp [writeK]
@[simp] theorem State.advance_cth (s : State) (t : Option Dword) :
    (s.advance t).cth = { s.cth with pc := t.getD s.nextPc, wait := .ready, poisoned := none, trail := [] } := by
  simp [State.advance]
@[simp] theorem writeG_mem (s : State) (r : Fin 24) (x : Dword) (c : Nat) : ((writeG s r x).core c).mem = (s.core c).mem := by
  simp [writeG]
@[simp] theorem writeV_mem (s : State) (r : Fin 8) (x : Vec) (c : Nat) : ((writeV s r x).core c).mem = (s.core c).mem := by
  simp [writeV]
@[simp] theorem writeK_mem (s : State) (r : Fin 8) (x : Dword) (c : Nat) : ((writeK s r x).core c).mem = (s.core c).mem := by
  simp [writeK]
@[simp] theorem State.advance_mem (s : State) (t : Option Dword) (c : Nat) : ((s.advance t).core c).mem = (s.core c).mem := by
  simp [State.advance]

end Sys2Proof.Machine
end

