-- ==== Sys2Proof/Laws/Ops.lean ====
section
/-! SUPPORT. What the shared operations can do, said once each: how an instruction ends, what its operands read and write, the two
shapes of the integer instructions, the transfers, the return from a trap and from an interrupt. -/

namespace Sys2Proof.Machine

/-! ## Ending an instruction -/

@[simp] theorem finish_ok (s t : State) (tgt : Option Dword) : finish s (.ok (t, tgt)) = .next (t.advance tgt) := rfl
@[simp] theorem finish_done (s t : State) : finish s (done t) = .next (t.advance none) := rfl
@[simp] theorem finish_trap (s : State) (c : Nat) (v : Dword) : finish s (.error (.trap c v)) = .next (s.trapHere c v) := rfl
@[simp] theorem finish_trapIn (s t : State) (c : Nat) (v : Dword) : finish s (.error (.trapIn t c v)) = .next (t.trapHere c v) := rfl
@[simp] theorem finish_flags (s : State) (f : Fl) (lanes : Dword) : finish s (.error (.flags f lanes)) =
    .next ((s.modCth (fun t => { t with fflg := t.fflg ||| f })).trapHere (flagCause f s.cth.fctl.te) lanes) := rfl
@[simp] theorem finish_flagsIn (s t : State) (f : Fl) (lanes : Dword) : finish s (.error (.flagsIn t f lanes)) =
    .next ((t.modCth (fun t => { t with fflg := t.fflg ||| f })).trapHere (flagCause f s.cth.fctl.te) lanes) := rfl
@[simp] theorem finish_wait (s t : State) (p : Poll) :
    finish s (.error (.wait t p)) = .next (t.modCth (fun x => { x with wait := .poll p })) := rfl
@[simp] theorem finish_mail (s t : State) (m : Mail) :
    finish s (.error (.mail t m)) = .next (t.modCth (fun x => { x with wait := .mail m })) := rfl
@[simp] theorem finish_park (s t : State) (k : PageKey) :
    finish s (.error (.park t k)) = .next (t.modCth (fun x => { x with wait := .parked k })) := rfl
@[simp] theorem finish_acquire (s t : State) (h : Held) :
    finish s (.error (.acquire t h)) = .next (t.modCth (fun x => { x with wait := .acquire h, poisoned := none })) := rfl
@[simp] theorem finish_access (s t : State) :
    finish s (.error (.access t)) = .next (t.modCth (fun x => { x with wait := .access, poisoned := none, trail := [] })) := rfl
@[simp] theorem finish_gone (s t : State) : finish s (.error (.gone t)) = .next t := rfl

/-- An instruction always ends in a next state: it completes, traps, waits or leaves. -/
theorem finish_next (s : State) (e : Eff) : ∃ t, finish s e = .next t := by
  unfold finish
  split
  · exact ⟨_, rfl⟩
  · split <;> exact ⟨_, rfl⟩

/-- A device step ends in a next state; one that is not enabled leaves the state as it is. -/
@[simp] theorem event_none (s : State) : event s none = .next s := rfl
@[simp] theorem event_some (s t : State) : event s (some t) = .next t := rfl

@[simp] theorem atomically_ok {α : Type} (s : State) (x : α) : atomically s (.ok x) = .ok x := rfl
@[simp] theorem atomically_wait {α : Type} (s t : State) (p : Poll) :
    atomically s (.error (.wait t p) : Except Halt α) = .error (.wait s p) := rfl
@[simp] theorem atomically_trap {α : Type} (s : State) (c : Nat) (v : Dword) :
    atomically s (.error (.trap c v) : Except Halt α) = .error (.trap c v) := rfl

/-! ## Binding in the error monad -/

@[simp] theorem bind_ok {ε α β : Type} (a : α) (f : α → Except ε β) : ((Except.ok a : Except ε α) >>= f) = f a := rfl
@[simp] theorem bind_error {ε α β : Type} (e : ε) (f : α → Except ε β) : ((Except.error e : Except ε α) >>= f) = .error e := rfl
@[simp] theorem map_ok' {ε α β : Type} (a : α) (f : α → β) : (Except.ok a : Except ε α).map f = .ok (f a) := rfl
@[simp] theorem map_error' {ε α β : Type} (e : ε) (f : α → β) : (Except.error e : Except ε α).map f = .error e := rfl
@[simp] theorem pure_ok {ε α : Type} (a : α) : (pure a : Except ε α) = .ok a := rfl

/-! ## Operands -/

theorem readG_ok {s : State} {r : Fin 24} (h : s.gPending s.cth.uid r = false) : readG s r = .ok (s.cth.g[r.val]) := by
  simp [readG, h]

theorem readG_wait {s : State} {r : Fin 24} (h : s.gPending s.cth.uid r = true) : readG s r = .error (.wait s .pending) := by
  simp [readG, h]

theorem readO_g {s : State} {r : Fin 24} (h : s.gPending s.cth.uid r = false) : readO s (.g r) = .ok (s.cth.g[r.val], s) := by
  simp [readO, readG_ok h]

@[simp] theorem writeO_g (s : State) (r : Fin 24) (x : Dword) : writeO s (.g r) x = .ok (writeG s r x) := rfl
@[simp] theorem writeO_v (s : State) (r : Fin 8) (x : Dword) : writeO s (.v r) x = .ok (writeV s r (x.setWidth 512)) := rfl
@[simp] theorem writeO_k (s : State) (r : Fin 8) (x : Dword) : writeO s (.k r) x = .ok (writeK s r x) := rfl
@[simp] theorem readS_imm (s : State) (x : Dword) : readS s (.imm x) = .ok (x, s) := rfl
@[simp] theorem readS_op (s : State) (o : Opnd) : readS s (.op o) = readO s o := rfl

/-- A two-address instruction whose operands are taken and whose result is written completes. -/
theorem twoAddress_ok {s t u : State} {d : Opnd} {o : Src} {a b : Dword} {f : Dword → Dword → Dword} (h : TakesTwo s d o a b t)
    (hw : writeO t d (f a b) = .ok u) : twoAddress s d o f = .ok (u, none) := by
  obtain ⟨s1, h1, h2⟩ := h
  simp [twoAddress, h1, h2, hw, done]

theorem oneSource_ok {s t u : State} {d o : Opnd} {x : Dword} {f : Dword → Dword} (h : readO s o = .ok (x, t))
    (hw : writeO t d (f x) = .ok u) : oneSource s d o f = .ok (u, none) := by
  simp [oneSource, h, hw, done]

/-! ## Acquires, privileged instructions, flows -/

/-- An acquire whose replies are there writes the result and drops the read buffers of its scope (R101). -/
theorem thenAcquire_returned {s t : State} {sc : Scope} {res : Option (Opnd × Dword)} {w : State → Except Halt State}
    (h : s.returned s.cth.uid = true) (hw : w s = .ok t) : s.thenAcquire sc res w = .ok (t.invalidate sc, none) := by
  simp [State.thenAcquire, h, hw]

/-- An acquire whose replies are not there waits for them, its read made (R102, R103). -/
theorem thenAcquire_waits {s : State} {sc : Scope} {res : Option (Opnd × Dword)} {w : State → Except Halt State}
    (h : s.returned s.cth.uid = false) : s.thenAcquire sc res w = .error (.acquire s { res := res, scope := sc, next := s.nextPc }) := by
  simp [State.thenAcquire, h]

/-- A privileged instruction off a service core traps (R149). -/
theorem privileged_user {s : State} {f : State → Eff} (h : isService s.cur.core = false) :
    s.privileged f = .error (.trap 0x02 (s.baseWord.setWidth 64)) := by
  simp [State.privileged, h]

/-- On a service core, with its thread's accesses performed and returned, it has its effect and then an acquire (R149, R293). -/
theorem privileged_ok {s t : State} {f : State → Eff} {tgt : Option Dword} (h : isService s.cur.core = true)
    (hd : s.drained s.cth.uid = true) (hr : s.returned s.cth.uid = true) (hf : f s = .ok (t, tgt)) :
    s.privileged f = .ok (t.invalidate .sys, tgt) := by
  simp [State.privileged, State.release, h, hd, hr, hf]

/-- A program of an engine that does not have to wait runs to its end in one step (R48, entry 68). -/
theorem run_done {α : Type} {s u : State} {t : List Made} {e : Eng α} {x : α} {split : Bool} (hs : split = false)
    (h : e (s.begins t false) = .ok (x, u)) : Eng.run s t [] e split = .done { u with cur := s.cur } x := by
  simp [Eng.run, hs, h]

/-- One that is refused before it has made an access leaves what the device recorded (R217, R257). -/
theorem run_refused {α : Type} {s u : State} {e : Eng α} {v : Dword} {split : Bool} (hs : split = false)
    (h : e (s.begins [] false) = .error (.refused u v)) : Eng.run s [] [] e split = .refused (s.keepLog u) v := by
  simp [Eng.run, hs, h]

/-- An operation of an engine that does not have to wait ends in one step (R48, R106). -/
theorem engOp_run_done {α : Type} {o : EngOp} {s u : State} {put : State → Option EngOp → State} {e : Eng α} {ends : State → α → State}
    {refused : State → Dword → State} {x : α} (hs : s.cur.split = false) (hp : o.poison = none)
    (h : e (s.begins o.trail false) = .ok (x, u)) :
    o.run s put e ends refused = ends (put { u with cur := s.cur } none) x := by
  simp [EngOp.run, run_done hs h, hp]

/-- A device program of a privileged instruction that runs to its end (R300, R349). -/
theorem forPriv_ok {α : Type} {s u : State} {e : Eng α} {x : α} {f : State → α → Eff} {g : State → Eff} (hs : s.cur.split = false)
    (hp : s.cth.poisoned = none) (h : e (s.begins s.cth.trail false) = .ok (x, u)) :
    Eng.forPriv s e f g = f { u with cur := s.cur } x := by
  simp [Eng.forPriv, hp, run_done hs h, Ran.priv]

/-- Where an operation makes its accesses in one step, a set of them is made in its order (R106, entry 68). -/
theorem many_whole {s : State} {l : List EngAcc} (h : s.stepwise = false) : Eng.many l s = (l.mapM Eng.one) s := by
  simp [Eng.many, h]

/-- No access of a set is made for nothing to read or write. -/
theorem many_nil {s : State} (h : s.stepwise = false) : Eng.many [] s = .ok ([], s) := by
  rw [many_whole h]; rfl

/-- An operation that has made no access, in a step that makes all of them, takes them as a whole. -/
theorem begins_whole (s : State) : (s.begins [] false).stepwise = false := rfl

/-- An event of a graph that has not begun, that no begun event of the graph keeps back and that waits for no page happens whole (R300,
R304, R348). -/
theorem schedule_done {s u : State} {gk : Nat} {who : Instr} {e : Eng Unit} (hw : s.waits.find? (fun w => w.who == who) = none)
    (hb : s.graphBusy gk who = false) (hs : s.cur.split = false) (h : e (s.begins [] false) = .ok ((), u)) :
    s.schedule gk who true e = some { u with cur := s.cur, waits := u.waits.filter (fun w => w.who != who) } := by
  simp [State.schedule, State.flow, State.dropWaiter, hw, hb, run_done hs h]

/-- While another event of a graph has begun, an event of it changes nothing (R304). -/
theorem schedule_busy {s : State} {gk : Nat} {who : Instr} {may : Bool} {e : Eng Unit} (hb : s.graphBusy gk who = true) :
    s.schedule gk who may e = none := by
  simp [State.schedule, hb]

/-! ## Transfers -/

theorem jump_in {s : State} {a : Dword} (h : s.inLocal s.cur.core s.cth a.toNat 2 = true) : jump s a = .ok (s, some a) := by
  simp [jump, h]

theorem jump_out {s : State} {a : Dword} (h : s.inLocal s.cur.core s.cth a.toNat 2 = false) :
    jump s a = .error (.trap 0x0A a) := by
  simp [jump, h]

/-! ## Returns -/

/-- TRAPRET outside a handler is an illegal instruction (R170). -/
theorem trapReturn_outside {s : State} {skip : Bool} (h : s.cth.xstat.h = false) :
    s.trapReturn skip = .error (.trap 0x01 (s.baseIllegal 10)) := by
  simp [State.trapReturn, h]

/-- IRET outside a delivered interrupt is an illegal instruction (R297). -/
theorem intReturn_outside {s : State} (h : (s.core s.cur.core).ien = true) :
    s.intReturn = .error (.trap 0x01 (s.baseIllegal 10)) := by
  simp [State.intReturn, h]

/-- IRET in a delivered interrupt enables interrupts and goes to EPC (R297). -/
theorem intReturn_inside {s : State} (h : (s.core s.cur.core).ien = false) (hs : (s.core s.cur.core).islot.val = s.cur.slot) :
    s.intReturn = .ok (s.modCore s.cur.core (fun c => { c with ien := true }), some (s.core s.cur.core).epc) := by
  simp [State.intReturn, h, hs]

end Sys2Proof.Machine
end

