-- ==== Sys2Proof/Tests/Slice0.lean ====
section
/-! SUPPORT. The author's own tests: words of the spec's encodings and what they decode to, ill-formed terms that the checks refuse,
single steps on small states, and a concrete case that meets the hypotheses of each claim. -/

namespace Sys2Proof.Tests

set_option Elab.async false

open Sys2Proof Sys2Proof.Machine

/-! ## Decoding: words written out from the encoding tables and the worked encodings of the spec -/

/-- A group of exactly these words decodes to the instruction. -/
def reads (gw : Bool) (ws : List Half) (i : Instr) : Bool :=
  match decode gw ws with
  | .ok (j, n) => decide (j = i) && n == ws.length
  | .error _ => false

theorem test_decode_add : reads false [0b0000010000100010] (.add (.g 1) (.op (.g 2))) = true := by decide
-- R139 and chapter 01: `add g4, 1000` begins with 0xF01F (the high ten bits of 1000 above the s field)
theorem test_decode_add_chain : reads false [0xF01F, 0x0488] (.add (.g 4) (.imm 1000)) = true := by decide
theorem test_decode_nop : reads false [0x2C00] (.or (.g 0) (.op (.g 0))) = true := by decide
-- R158
theorem test_decode_ext : reads false [0xF41C, 0x6485] (.ext (.g 4) (.g 5) .w8 true) = true := by decide
-- R159
theorem test_decode_csel : reads false [0xF4C0, 0x8C85] (.csel 4 (.g 5) (.g 6)) = true := by decide
-- R160, R161
theorem test_decode_loop : reads false [0b1011000100111110] (.loop 9 (-2)) = true := by decide
theorem test_decode_br : reads false [0b1001001111111111] (.br (-1)) = true := by decide
theorem test_decode_jr : reads false [0x9817] (.jr 23) = true := by decide
-- R163
theorem test_decode_brf : reads false [0xFA00, 0xF480, 0xA417] (.brf 23 4) = true := by decide
theorem test_decode_callf : reads false [0xFA00, 0xF4C0, 0xAAE5] (.callf 23 5 6) = true := by decide
-- R164
theorem test_decode_qwait : reads false [0xDF04] (.qwait (.q 0) 4) = true := by decide
-- R208, R209, R210, R211, R213
theorem test_decode_ld : reads false [0b1011010010000101] (.ld (.g 4) { base := 5, off := 0, cls := .ord, scope := .core, sg := 0 } .w64) = true := by
  decide
theorem test_decode_ldacq : reads false [0xC885] (.ldacq (.g 4) { base := 5, off := 0, cls := .ord, scope := .pkg, sg := 0 } .w64) = true := by
  decide
theorem test_decode_strel : reads false [0xFC80, 0xCCE6] (.strel { base := 7, off := 0, cls := .ord, scope := .dom, sg := 0 } (.g 6) .w64) = true := by
  decide
theorem test_decode_ldfe : reads false [0xC087] (.ldfe (.g 4) { base := 7, off := 0, cls := .ord, scope := .core, sg := 0 }) = true := by
  decide
theorem test_decode_stfe : reads false [0xC4E4] (.stfe { base := 7, off := 0, cls := .ord, scope := .core, sg := 0 } (.g 4)) = true := by
  decide
theorem test_decode_amo : reads false [0xFD04, 0xF4C0, 0xD085]
    (.amo 4 6 { base := 5, off := 0, cls := .rlx, scope := .core, sg := 1 } .w64 .add) = true := by decide
theorem test_decode_cas : reads false [0xF4C0, 0xD485]
    (.cas 4 6 { base := 5, off := 0, cls := .ord, scope := .core, sg := 0 } .w64) = true := by decide
theorem test_decode_lea : reads false [0xEC89] (.lea 4 { base := 9, off := 0, cls := .ord, scope := .core, sg := 0 }) = true := by
  decide
-- R212
theorem test_decode_fence : reads false [0b1101100000011101] (.fenceFull .sys) = true := by decide
-- R180, R182, R185, R189, R190
theorem test_decode_fma : reads false [0xF900, 0xF480, 0x1843]
    (.fma { ty := .f64, sc := false, mask := 0 } (.v 2) (.v 3) (.v 4) (some .rne)) = true := by decide
theorem test_decode_fcmp : reads false [0xF900, 0xF461, 0x4522]
    (.fcmp { ty := .f64, sc := false, mask := 0 } (.k 1) (.v 2) (.v 3) .lt) = true := by decide
theorem test_decode_fget : reads false [0xF908, 0xF400, 0x6880] (.fget 4 false) = true := by decide
theorem test_decode_vadd : reads false [0xF972, 0x7823] (.vadd { ty := .i32, sc := false, mask := 2 } 1 (.op (.v 3))) = true := by
  decide
-- R195, R196, R204
theorem test_decode_kop : reads false [0xF900, 0xF405, 0xE22A] (.kop (.b 1) (.k 2) .pop) = true := by decide
theorem test_decode_vld : reads false [0xF900, 0xB030]
    (.vld { ty := .f64, sc := false, mask := 0 } 1 { base := 0, off := 0, cls := .ord, scope := .core, sg := 0 }) = true := by
  decide
theorem test_decode_baddq : reads false [0xFA01, 0xF4C0, 0x9C85] (.baddq 4 5 6 .e4m3 false (some .rne)) = true := by decide
-- R216, R219, R223, R237
theorem test_decode_copy : reads false [0xFA00, 0x0480] (.copy 4 0) = true := by decide
theorem test_decode_copy2d : reads false [0xFA00, 0x0900] (.copy2d 8 0) = true := by decide
theorem test_decode_notice : reads false [0xFA00, 0x0C80] (.notice 4) = true := by decide
theorem test_decode_gwtake : reads true [0xFA00, 0xA085] (.gwtake 4 5) = true := by decide
theorem test_decode_mma : reads false [0xFA15, 0xF008, 0x2C85] (.mma 1 true (some .f16) 4 5 none 8) = true := by decide
theorem test_decode_mma_p0 : reads false [0xFA80, 0xF008, 0x2C85] (.mma 0 false none 4 5 none 8) = true := by decide
-- ropes, generation, page 3 (R147, R169 to R174)
theorem test_decode_rpsplice : reads false [0b1111101000000001, 0b0101010001000011] (.rpsplice 2 3 true) = true := by decide
theorem test_decode_brk : reads false [0xFB00, 0x0805] (.brk 5) = true := by decide
theorem test_decode_trapret : reads false [0xFB00, 0x0C01] (.trapret true) = true := by decide
theorem test_decode_getx : reads false [0xFB00, 0x1082] (.getx 4 2) = true := by decide
theorem test_decode_gfail : reads false [0xFB00, 0x1D80] (.gfail 12) = true := by decide
theorem test_decode_glaunch : reads false [0b1111101100000000, 0b0110100000100010] (.glaunch 1 2) = true := by decide
theorem test_decode_iret : reads false [0b1111101100000000, 0b0111110000000000] .iret = true := by decide

/-! ## Ill-formed terms -/

theorem test_wf_operand_space : Instr.wf (.add (.v 1) (.op (.g 2))) = false ∧ Instr.wf (.add (.g 1) (.op (.b 2))) = false := by decide
theorem test_wf_chain_length : Instr.wf (.add (.g 1) (.imm (2 ^ 45))) = false ∧ Instr.wf (.shl (.g 1) (.imm (-1))) = false ∧
    Instr.wf (.br (2 ^ 50)) = false ∧ Instr.wf (.sysc (2 ^ 35)) = false ∧ Instr.wf (.movi (.g 1) (2 ^ 44)) = false := by decide
theorem test_wf_type : Instr.wf (.fadd { ty := .i32, sc := false, mask := 0 } (.v 1) (.v 2) none) = false ∧
    Instr.wf (.vadd { ty := .f32, sc := false, mask := 0 } 1 (.op (.v 2))) = false ∧
    Instr.wf (.fabs { ty := .q4x, sc := false, mask := 0 } (.v 1) (.v 2)) = false ∧
    Instr.wf (.vmov { ty := .tri, sc := false, mask := 0 } 1 (.v 2)) = false ∧
    Instr.wf (.fcvt { ty := .f64, sc := false, mask := 0 } (.v 1) (.v 2) .i8 none) = false ∧
    Instr.wf (.mma 0 false (some .e4m3) 1 2 none (2 ^ 30)) = false ∧ Instr.wf (.mma 0 false (some .i32) 1 2 none 0) = false ∧
    Instr.wf (.qpack { ty := .f16, sc := false, mask := 0 } 1 2 .tri none) = false := by decide
theorem test_wf_scalar : Instr.wf (.fadd { ty := .f32, sc := true, mask := 1 } (.g 1) (.g 2) none) = false ∧
    Instr.wf (.vadd { ty := .i32, sc := true, mask := 0 } 1 (.op (.v 2))) = false ∧
    Instr.wf (.fadd { ty := .f32, sc := true, mask := 0 } (.v 1) (.g 2) none) = false ∧
    Instr.wf (.fadd { ty := .f32, sc := false, mask := 0 } (.v 1) (.k 2) none) = false := by decide
theorem test_wf_class : Instr.wf (.ld (.g 1) { base := 2, off := 0, cls := .rlxa, scope := .core, sg := 0 } .w64) = false ∧
    Instr.wf (.st { base := 2, off := 0, cls := .rlxc, scope := .core, sg := 0 } (.g 1) .w64) = false ∧
    Instr.wf (.ldacq (.g 1) { base := 2, off := 0, cls := .rlx, scope := .core, sg := 0 } .w64) = false ∧
    Instr.wf (.ld (.q 1) { base := 2, off := 0, cls := .rlx, scope := .core, sg := 0 } .w64) = false ∧
    Instr.wf (.lea 1 { base := 2, off := 0, cls := .ord, scope := .die, sg := 0 }) = false := by decide
theorem test_wf_offset : Instr.wf (.ld (.g 1) { base := 2, off := 2 ^ 29, cls := .ord, scope := .core, sg := 1 } .w64) = false ∧
    Instr.wf (.ld (.g 1) { base := 2, off := 2 ^ 29 - 1, cls := .ord, scope := .core, sg := 1 } .w64) = true := by decide
theorem test_wf_group : Instr.wf (.copy 21 0) = false ∧ Instr.wf (.copy 20 0) = true ∧ Instr.wf (.rpscan 0 19) = false ∧
    Instr.wf (.phread 23 0 .core) = false ∧ Instr.wf (.spawn 0 21 0) = false := by decide
theorem test_wf_selector : Instr.wf (.gets (.g 1) 7) = false ∧ Instr.wf (.gets (.g 1) 28) = false ∧ Instr.wf (.qwait (.q 0) 17) = false ∧
    Instr.wf (.qwait (.link .n) 9) = false ∧ Instr.wf (.qwait (.g 0) 1) = false ∧ Instr.wf (.mxcfg 5 0) = false := by decide
theorem test_wf_vector : Instr.wf (.vld { ty := .f64, sc := false, mask := 0 } 1 { base := 16, off := 0, cls := .ord, scope := .core, sg := 0 }) = false ∧
    Instr.wf (.vscat { ty := .f64, sc := false, mask := 0 } { base := 1, off := 0, cls := .ord, scope := .core, sg := 0 } 1) = false ∧
    Instr.wf (.vext { ty := .f64, sc := false, mask := 1 } 0 0 0) = false ∧
    Instr.wf (.vred { ty := .i32, sc := false, mask := 0 } 1 (.v 2) false .add (some .rtz)) = false ∧
    Instr.wf (.vslide { ty := .i32, sc := false, mask := 0 } 1 (.op (.v 2))) = false ∧
    Instr.wf (.kop (.b 1) (.b 2) .mov) = false ∧ Instr.wf (.kop (.v 1) (.k 2) .and) = false := by decide
theorem test_wf_amo_width : Instr.wf (.amo 1 2 { base := 2, off := 0, cls := .ord, scope := .core, sg := 0 } .w16 .add) = false ∧
    Instr.wf (.cas 1 2 { base := 2, off := 0, cls := .ord, scope := .core, sg := 0 } .w8) = false := by decide
theorem test_wf_mxstc : Instr.wf (.mxstc 0 true 1 2 .i8 none) = false ∧ Instr.wf (.mxstc 0 false 1 2 .q4x none) = false := by decide
theorem test_wf_device_step : Instr.wf .deviceReset = false ∧ Instr.wf (.migration 0) = false := by decide

/-! ## Small states -/

/-- A machine whose only thread is t, in slot 0 of core c, with a group of one word being issued. -/
def on (c : Nat) (t : Thread) : State := ({ State.reset with cores := [(c, { slots := [(0, t)] })] } : State).atGroup c 0 [0xABCD] 1

/-- A thread of node 5 with these g registers from g0 on and the default segments. -/
def th (l : List Dword) : Thread := { g := Vector.ofFn (fun i => l.getD i.val 0), sg := defaultSegs, node := some 5, uid := 9 }

/-- The same on compute core 0. -/
def sm (l : List Dword) : State := on 0 (th l)

/-- The state after an instruction. -/
def after (i : Instr) (s : State) : State :=
  match exec i s with
  | .next t => t
  | _ => s

/-- Register r after an instruction on registers l. -/
def gAfter (i : Instr) (l : List Dword) (r : Fin 24) : Dword := (after i (sm l)).cth.g[r]

/-! ## The cases that claims assume: page 0 -/

/-- Core 0 with queue 0 bound to node 5, its producer and consumer slots, and these entries. -/
def withQ (p c : Fin 32) (es : List Dword) (s : State) : State :=
  s.modCore 0 (fun k => k.setQueue 0 { ent := es, bind := some ⟨5, p, c⟩ })

/-- Core 0 with its north link bound to node 5 and slot 0, these entries standing in it, a ready claim of the node on the neighbour. -/
def withL (es : List Dword) (s : State) : State :=
  (s.modCore 0 (fun k => k.setLink .n { ent := es, bind := some (5, 0) })).modCore 56 (fun k =>
    { k with claims := [{ node := 5, attempt := 0, lo := 0, hi := 0, ready := true }] })

/-- A relaxed load of the thread with uid 9 to g1, sent and not performed. -/
def sentLoad : Access :=
  { iss := { core := 0, slot := 0, uid := 9, pc := 0, tag := 0 }, cls := .rlx, dest := .g 1 8 false,
    pieces := [{ loc := .core 1 0, n := 8, op := .rd, pos := 0, off := 0, ra := 0 }] }

/-- The small state with that load on its way. -/
def smLoad (l : List Dword) : State := { sm l with net := [sentLoad] }

/-- Node 5 in travel mode on core 0: segment 0 (bytes 0 to 63) held by cores 0 and 64, segment 1 (64 to 127) by cores 1 and 64. -/
def travels (s : State) : State :=
  s.modClu 0 (fun k => { k with maps := [{ node := 5, attempt := 0, lv := none, entries := [⟨[0, 2], 64, 0⟩, ⟨[1, 2], 64, 64⟩], cores := [0, 1, 64] }] })

theorem test_meets_TwoAddressResults : ∃ t, TakesTwo (sm [0, -7]) (.g 1) (.imm 2) (-7) 2 t := ⟨_, _, rfl, rfl⟩
theorem test_meets_TwoAddressResults_queue : ∃ t, TakesTwo (withQ 0 0 [3, 4] (sm [])) (.q 0) (.op (.q 0)) 3 4 t := ⟨_, _, rfl, rfl⟩
theorem test_meets_CountMoveSelectResults : (∃ t, readO (sm [0, 8]) (.g 1) = .ok (8, t)) ∧ ∃ u, writeO (sm []) (.g 1) 5 = .ok u :=
  ⟨⟨_, rfl⟩, ⟨_, rfl⟩⟩
theorem test_meets_CountMoveSelectResults_csel : ∃ t u, readO (withQ 0 0 [3, 0] (sm [])) (.q 0) = .ok (3, t) ∧ readO t (.q 0) = .ok (0, u) :=
  ⟨_, _, rfl, rfl⟩
theorem test_meets_Operands_g : (sm []).gPending (sm []).cth.uid 0 = false ∧ (smLoad []).gPending (smLoad []).cth.uid 1 = true := by decide
theorem test_meets_Operands_queue : queueRoles (withQ 1 0 [7] (sm [])) 0 = (false, true) ∧
    queueRoles (withQ 0 1 [] (sm [])) 0 = (true, false) ∧ queueRoles (sm []) 0 = (false, false) ∧
    (((withQ 1 0 [7] (sm [])).core 0).queue 0).ent = [7] ∧
    (((withQ 0 1 (List.replicate 15 1) (sm [])).core 0).queue 0).ent.length = 15 ∧
    (((withQ 0 1 (List.replicate 16 1) (sm [])).core 0).queue 0).ent.length = 16 := by decide
theorem test_meets_Operands_link : linkBound (withL [7] (sm [])) .n = true ∧ (((withL [7] (sm [])).core 0).link .n).ent = [7] ∧
    neighbour 0 .n = some 56 ∧ ((withL [] (sm [])).core 56).claims.any (fun k => (withL [] (sm [])).cth.node = some k.node && k.ready) = true ∧
    (((withL [] (sm [])).core 56).link .s).ent.length + (((withL [] (sm [])).core 56).link .s).fly.length < 8 ∧
    linkBound (sm []) .n = false := by decide
theorem test_meets_WaitingTakesNothing_first : ∃ t, readO (withQ 0 0 [] (sm [])) (.q 0) = .error (.wait t .queue) := ⟨_, rfl⟩
theorem test_meets_WaitingTakesNothing_second : ∃ t t', readO (withQ 0 0 [1] (sm [])) (.q 0) = .ok (1, t) ∧
    readS t (.op (.q 0)) = .error (.wait t' .queue) := ⟨_, _, rfl, rfl⟩
theorem test_meets_WaitingTakesNothing_result : ∃ t, TakesTwo (smLoad [0, 0, 3]) (.g 2) (.imm 1) 3 1 t ∧
    ∃ t', writeO (withQ 0 1 (List.replicate 16 1) (sm [])) (.q 0) 4 = .error (.wait t' .queue) :=
  ⟨_, ⟨_, rfl, rfl⟩, _, rfl⟩
theorem test_meets_WaitingTakesNothing_trap : ∃ t, readO (withQ 0 0 [1] (sm [])) (.q 0) = .ok (1, t) ∧
    readS t (.op (.q 1)) = .error (.trap 0x10 25) := ⟨_, rfl, rfl⟩
theorem test_meets_RegisterFormFrame : (sm []).issuing ∧ regForm (.add (.g 1) (.op (.g 2))) = some (1, [1, 2]) ∧ (sm []).readable [1, 2] ∧
    regForm (.csel 1 (.g 2) (.g 3)) = some (1, [2, 3]) ∧ regForm (.movi (.g 23) 4) = some (23, []) :=
  ⟨by unfold State.issuing; decide, rfl, by unfold State.readable; decide, rfl, rfl⟩
theorem test_meets_Transfers : (sm []).gPending (sm []).cth.uid 1 = false ∧ (sm []).inLocal 0 (sm []).cth 4 2 = true ∧
    (travels (sm [])).inLocal 0 (sm []).cth 62 2 = true ∧ (travels (sm [])).inLocal 0 (sm []).cth 64 2 = false := by decide
theorem test_meets_QwaitAndGets : (queueRoles (withQ 0 0 [] (sm [])) 0).2 = true ∧ queueRoles (withQ 0 1 [] (sm [])) 0 = (true, false) ∧
    linkBound (withL [] (sm [])) .n = true ∧ (sm []).cth.node = some 5 ∧ (sm []).segMap? 0 (sm []).cth = none ∧
    (∃ m j e, (travels (sm [])).segMap? 0 (sm []).cth = some m ∧ m.localSeg 0 = some (j, e)) ∧
    (on 2051 (th [])).logicalOf 2051 = BitVec.ofNat 64 2051 ∧ (on 2075 (th [])).logicalOf 2075 = BitVec.ofNat 64 2075 :=
  ⟨by decide, by decide, by decide, by decide, by decide, ⟨_, _, _, rfl, rfl⟩, by decide, by decide⟩
theorem test_meets_QwaitAndGets_none : (on 2052 { th [] with node := none }).cth.node = none ∧ isGateway 2052 = true ∧
    (on 2052 { th [] with node := none }).cth.attempt = 0 ∧ (on 2052 { th [] with node := none }).cth.lvIdx = [] ∧
    (on 2052 { th [] with node := none }).cth.lvExt = [] ∧ isGateway 2048 = false ∧
    ∃ u, writeO ((on 2048 { th [] with node := none }).freeW).2 (.g 1) ((on 2048 { th [] with node := none }).freeW).1 = .ok u :=
  ⟨rfl, by decide, rfl, rfl, rfl, by decide, _, rfl⟩

/-! ## Memory -/

/-- A segment of a space with rights, limit and base 0. -/
def seg (sp r lim : Nat) : Seg := { space := BitVec.ofNat 4 sp, rights := BitVec.ofNat 4 r, limit := BitVec.ofNat 40 lim }
/-- The small state with segment 1. -/
def smSeg (l : List Dword) (x : Seg) : State := (sm l).modCth (fun t => { t with sg := vset t.sg 1 x })

theorem test_meets_SegmentChecks_right : (smSeg [] (seg 1 7 64)).segCheck 1 0 8 8 (denyWindow 8) = .error (.trap 0x04 0) := rfl
theorem test_meets_SegmentChecks_limit : (smSeg [] (seg 1 8 64)).segCheck 1 57 8 8 (denyWindow 8) = .error (.trap 0x03 57) := rfl
theorem test_meets_SegmentChecks_reach : (smSeg [] (seg 7 8 64)).segCheck 1 0 8 8 (denyWindow 8) = .error (.trap 0x04 0) := rfl
theorem test_meets_SegmentChecks_align : (smSeg [] (seg 1 8 64)).segCheck 1 4 8 8 (denyWindow 8) = .error (.trap 0x05 4) := rfl
theorem test_meets_SegmentChecks_window : (smSeg [] (seg 6 8 64)).segCheck 1 4 4 8 (denyWindow 4) = .error (.trap 0x05 4) := rfl
theorem test_meets_SegmentChecks_ok : ∃ ra, (smSeg [] (seg 1 8 64)).segCheck 1 56 8 8 (denyWindow 8) = .ok (.core 0 56, ra) := ⟨_, rfl⟩
theorem test_meets_Lea : (smSeg [] (seg 1 0 64)).gPending 9 1 = false ∧ (smSeg [] (seg 1 0 64)).cth.sg[1].limit.toNat ≤ 64 ∧
    63 < (smSeg [] (seg 1 0 64)).cth.sg[1].limit.toNat := by decide
theorem test_meets_OrdinaryAccess : (sm []).unhindered (.core 0 8) 8 .rd ∧ (sm []).unhindered (.clu 0 8) 8 (.amo .min 3) := by
  unfold State.unhindered; decide

/-- One resident leaf of partition 0: virtual page 1 at frame 0x20000 of package 0, all rights. -/
def paged (s : State) : State := s.modClu 0 (fun k => { k with tlb := [{ part := 0, big := false, page := 1, leaf := 0x2013F }] })

theorem test_meets_OrdinaryAccess_global : (paged (sm [])).reaches 0x10008 8 .rd 0 0x20008 ∧
    (paged (sm [])).reaches 0x1FFF8 8 (.wr 5 0x3C) 0 0x2FFF8 := ⟨⟨0x2013F, false, by decide⟩, ⟨0x2013F, false, by decide⟩⟩

/-- An operand of g1 through segment 0. -/
def m1 (c : Cls) : MemOp := { base := 1, off := 0, cls := c, scope := .core, sg := 0 }

theorem test_meets_LoadResults : ∃ ra t, (sm [0, 8]).segCheck 0 8 8 8 (denyWindow 8) = .ok (.core 0 8, ra) ∧
    (sm [0, 8]).isRelaxed .ord (.core 0 8) = false ∧ (sm [0, 8]).ordinary (.core 0 8) 8 .rd 8 ra = .ok (t, 0) := ⟨_, _, rfl, by decide, rfl⟩
theorem test_meets_LoadResults_relaxed : (sm [0, 8]).isRelaxed .rlx (.core 0 8) = true ∧
    (((sm [0, 8]).accesses 9).filter Access.outstanding).length < 16 := by decide
theorem test_meets_StoreResults : ∃ ra t u, (sm [0, 8, 5]).segCheck 0 8 8 4 (denyWindow 8) = .ok (.core 0 8, ra) ∧
    (sm [0, 8, 5]).ordinary (.core 0 8) 8 (.wr 5 (fullMask 8)) 8 ra = .ok (t, 0) ∧ readO t (.g 2) = .ok (5, u) := ⟨_, _, _, rfl, rfl, rfl⟩
theorem test_meets_StoreResults_queue : ∃ ra s1 t u, (withQ 1 0 [5] (sm [0, 8])).segCheck 0 8 8 4 (denyWindow 8) = .ok (.core 0 8, ra) ∧
    readO (withQ 1 0 [5] (sm [0, 8])) (.q 0) = .ok (5, s1) ∧
    (withQ 1 0 [5] (sm [0, 8])).ordinary (.core 0 8) 8 (.wr 5 (fullMask 8)) 8 ra = .ok (t, 0) ∧ readO t (.q 0) = .ok (5, u) :=
  ⟨_, _, _, _, rfl, rfl, rfl, rfl⟩
/-- The small state's load is performed at its bank, and has not returned. -/
def smDone : State := { sm [] with net := [{ sentLoad with pieces := [{ loc := .core 1 0, n := 8, op := .rd, pos := 0, off := 0, ra := 0, stage := .done 7 }] }] }

theorem test_meets_Fences : (sm []).drained 9 = true ∧ (sm []).returned 9 = true ∧ (smLoad []).drained 9 = false ∧
    (smLoad []).returned 9 = false ∧ smDone.drained 9 = true ∧ smDone.returned 9 = false := by decide
theorem test_meets_Fences_load : ∃ t, loadEff (sm [0, 8]) (.g 2) { m1 .ord with cls := .ord } .w64 false = .ok (t, none) := ⟨_, rfl⟩
theorem test_meets_AtomicResults : ∃ ra t t' x x', (sm [0, 8, 5]).segCheck 0 8 8 1 (fun sp => if sp = 6 then some 0x04 else none) = .ok (.core 0 8, ra) ∧
    (sm [0, 8, 5]).ordinary (.core 0 8) 8 (.amo .add 5) 8 ra = .ok (t, x) ∧ (sm [0, 8, 5]).ordinary (.core 0 8) 8 (.cas 0 5) 8 ra = .ok (t', x') :=
  ⟨_, _, _, _, _, rfl, rfl, rfl⟩
theorem test_meets_FullEmptyWords : ∃ ra t, (sm [0, 8]).segCheck 0 8 8 8 denyFe = .ok (.core 0 8, ra) ∧ (sm [0, 8]).feBit (.core 0 8) = false ∧
    ((sm [0, 8]).setFe (.core 0 8) true).feBit (.core 0 8) = true ∧ ((sm [0, 8]).setFe (.core 0 8) true).ordinary (.core 0 8) 8 .rd 8 ra = .ok (t, 0) :=
  ⟨_, _, rfl, by decide, by decide, rfl⟩
theorem test_meets_FullEmptyWords_store : ∃ ra t, (sm [0, 8, 5]).segCheck 0 8 8 4 denyFe = .ok (.core 0 8, ra) ∧
    (sm [0, 8, 5]).ordinary (.core 0 8) 8 (.wr 5 (fullMask 8)) 8 ra = .ok (t, 0) ∧
    readO (t.setFe (.core 0 8) true) (.g 2) = .ok (5, t.setFe (.core 0 8) true) := ⟨_, _, rfl, rfl, rfl⟩

/-- The words of a group at the start of core 0's store. -/
def code (ws : List Half) (s : State) : State :=
  s.modCore 0 (fun k => { k with
    mem := wrBytes k.mem 0 (ws.flatMap (fun (h : Half) => [BitVec.ofNat 8 h.toNat, BitVec.ofNat 8 (h.toNat / 256)])) })

/-- The small state with the thread changed. -/
def smT (l : List Dword) (f : Thread → Thread) : State := (sm l).modCth f

theorem test_meets_FullEmptyWords_serve : ∃ s1, (code [0xC087] (smT [] (fun t => { t with wait := .poll (.fullEmpty (.core 0 0) true) }))).fetch 0 0 =
    .run s1 (.ldfe (.g 4) { base := 7, off := 0, cls := .ord, scope := .core, sg := 0 }) := ⟨_, rfl⟩
theorem test_meets_FullEmptyWords_serve_store : ∃ s1, (code [0xC4E4] (smT [] (fun t => { t with wait := .poll (.fullEmpty (.core 0 0) false) }))).fetch 0 0 =
    .run s1 (.stfe { base := 7, off := 0, cls := .ord, scope := .core, sg := 0 } (.g 4)) := ⟨_, rfl⟩

def p1 (ty : Ty) (m : Fin 8) : P1 := { ty := ty, sc := false, mask := m }

theorem test_meets_VectorMemory : (∃ ra t, (sm [0, 64]).segCheck 0 64 64 8 (denyWindow 64) = .ok (.core 0 64, ra) ∧
    (sm [0, 64]).ordinary (.core 0 64) 64 .rd 64 ra = .ok (t, 0)) ∧ lanesOf (sm []) (p1 .f64 0) 8 ≠ [] ∧
    lanesOf (sm []) (p1 .f64 1) 8 = [] ∧ (sm []).vPending 9 1 = false := ⟨⟨_, _, rfl, rfl⟩, by decide, by decide, by decide⟩
theorem test_meets_VectorMemory_store : ∃ ra t, (sm [0, 64]).segCheck 0 64 64 4 (denyWindow 64) = .ok (.core 0 64, ra) ∧
    (sm [0, 64]).ordinary (.core 0 64) 64 (.wr 0 (fullMask 64)) 64 ra = .ok (t, 0) := ⟨_, _, rfl, rfl⟩

/-- The small state with k1 selecting lane 3 alone. -/
def smLane (l : List Dword) : State := smT l (fun t => { t with k := vset t.k 1 8 })

/-- The small state with k1 selecting lanes 0, 2, 3 and 5, whose offsets in v3 are 8, 16, 16 and 40. -/
def smLanes (l : List Dword) : State :=
  smT l (fun t => { t with k := vset t.k 1 0x2D, v := vset t.v 3 (BitVec.ofNat 512 (8 + 16 * 2 ^ 128 + 16 * 2 ^ 192 + 40 * 2 ^ 320)) })

theorem test_meets_GatherScatter : lanesOf (smLanes []) (p1 .f64 1) 8 = [0, 2, 3, 5] ∧
    (smLanes []).elementAt (m1 .ord) 16 8 8 .rd (.core 0 16) ∧ (smLanes []).elementAt (m1 .ord) 40 8 4 (.wr 7 (fullMask 8)) (.core 0 40) :=
  ⟨by decide, ⟨.inl ⟨_, _, rfl⟩, ⟨_, rfl⟩, by decide, by unfold State.unhindered; decide⟩,
    ⟨.inl ⟨_, _, rfl⟩, ⟨_, rfl⟩, by decide, by unfold State.unhindered; decide⟩⟩
-- R197: of two lanes that store to one place the higher one's value stays
theorem test_vscat_order : (match exec (.vscat (p1 .f64 1) (m1 .ord) 2) ((smLanes [0, 0]).modCth (fun t => { t with
      v := vset t.v 2 (BitVec.ofNat 512 (7 * 2 ^ 128 + 9 * 2 ^ 192)) })) with
    | .next t => rdLE (t.core 0).mem 16 8 == 9
    | _ => false) = true := by decide +kernel
theorem test_meets_GatherScatter_trap : (smLane [0, 4]).segCheck 0 4 8 8 (denyWindow 8) = .error (.trap 0x05 4) ∧
    (smLane [0, 4]).segCheck 0 4 8 4 (denyWindow 8) = .error (.trap 0x05 4) := ⟨rfl, rfl⟩

/-- Resolved address of byte a of the issuing core's store, with all rights. -/
def own (a : Nat) : Dword := BitVec.ofNat 64 (0x1F * 2 ^ 56 + a)

theorem test_meets_PhaseInstructions : (sm []).phasePlace (own 32) 8 = .ok (.core 0 32) ∧
    ∃ t, (sm []).ordinary (.core 0 32) 16 .rd 32 (own 32) = .ok (t, 0) := ⟨rfl, _, rfl⟩
theorem test_meets_PhaseUpdate : (sm []).phasePlace (own 32) 4 = .ok (.core 0 32) ∧ (sm []).phasePlace (own 32) 1 = .ok (.core 0 32) ∧
    (∃ t, (sm []).ordinary (.core 0 32) 16 (.wr 5 (fullMask 16)) 32 (own 32) = .ok (t, 0)) ∧
    (∃ t, (sm []).ordinary (.core 0 32) 16 (.phase 7 1) 32 (own 32) = .ok (t, 0)) ∧
    ∃ t, (sm []).bank 0 (.core 0 40) 8 (.amo .add 5) = .ok t 0 := ⟨rfl, rfl, ⟨_, rfl⟩, ⟨_, rfl⟩, _, rfl⟩
theorem test_meets_PhaseInstructions_wait : 0 % 2 ^ 31 ≠ 1 % 2 ^ 31 ∧ 0 % 2 ^ 31 = 2 ^ 31 % 2 ^ 31 ∧ (sm []).cth.deferred = [] := by decide
theorem test_meets_PhaseInstructions_reread : ∃ s1 i, (code (encode (.phwait 4 5 .pkg)) (smT [] (fun t => { t with wait := .poll (.phase (.core 0 32) 0 4 .pkg 4) }))).fetch 0 0 =
    .run s1 i ∧ i = .phwait 4 5 .pkg := ⟨_, _, rfl, rfl⟩
theorem test_meets_PhaseUpdate_counts : pwTbytes 0 ≤ 0 ∧ ¬ pwTarr (5 * 2 ^ 112) ≤ 1 ∧ 5 * 2 ^ 112 < 2 ^ 128 := by decide
theorem test_meets_MemoryFrames : ∃ t u, exec (.ld (.g 2) (m1 .ord) .w64) (sm [0, 8]) = .next t ∧ exec (.st (m1 .ord) (.g 2) .w64) (sm [0, 8]) = .next u :=
  ⟨_, _, rfl, rfl⟩
theorem test_meets_MemoryFrames_lanes : (match checkElems (smLanes []) 0 8 4 [(2, 16), (5, 40)] with
    | .ok es => (match routeElems 8 .ord (fun _ => .wr 7 (fullMask 8)) ((smLanes []).begins [] false) es with
      | .ok (_, ps, _) => ps.map Piece.place == [.core 0 16, .core 0 40]
      | .error _ => false)
    | .error _ => false) = true ∧ ((sm []).sourcesRead [own 64, own 128]).isSome = true ∧
    (sm []).place 0 0 (raSpace (own 64)) (raField (own 64)) = some (.core 0 64) := by decide +kernel

/-- The load with its piece in a stage. -/
def loadIn (st : Stage) : Access := { sentLoad with pieces := [{ loc := .core 1 0, n := 8, op := .rd, pos := 0, off := 0, ra := 0, stage := st }] }
def netOf (a : Access) (s : State) : State := { s with net := [a] }

theorem test_meets_RelaxedReplies : (loadIn (.done 7)).performed = true ∧ failureOf (loadIn (.done 7)).pieces = none ∧
    (loadIn (.failed 4)).performed = true ∧ failureOf (loadIn (.failed 4)).pieces = some (4, 0) ∧ (loadIn (.done 7)).ord = none ∧
    (sm []).lookUid (loadIn (.done 7)).iss.uid = some (th []) := ⟨by decide, by decide, by decide, by decide, rfl, rfl⟩
theorem test_meets_RelaxedReplies_link : ((((sm []).modCore 0 (fun k => k.setLink .n { fly := [7] })).core 0).link .n).fly = [7] := by decide
theorem test_meets_RelaxedReplies_buffer : 0 < (((sm []).modClu 0 (fun k => { k with rbuf := [{ part := 0, line := 3, pkg := 0, pline := 3, data := 0 }] })).clu 0).rbuf.length := by decide
theorem test_meets_RelaxedReplies_report : (smT [] (fun t => { t with reports := [⟨0x0D, 4, 5⟩] })).cth.reports = [⟨0x0D, 4, 5⟩] ∧
    (smT [] (fun t => { t with reports := [⟨0x04, 4, 5⟩] })).cth.wait = .ready := by decide

/-- A relaxed load of global address 0x10008 that has been sent. -/
def globLoad : Access := { sentLoad with pieces := [{ loc := .glob 0x10008, n := 8, op := .rd, pos := 0, off := 0, ra := 0 }] }

theorem test_meets_RelaxedTransport_hit : (paged (netOf globLoad (sm []))).tlbHit 0 0 0x10008 = some (0x2013F, false) ∧
    pteRights 0x2013F &&& opRight .rd ≠ 0 ∧ ptePoison 0x2013F = false ∧
    (paged (netOf globLoad (sm []))).portTurn 0 0 globLoad { loc := .glob 0x10008, n := 8, op := .rd, pos := 0, off := 0, ra := 0 } = true := by decide
/-- R95: a second load of the same thread to that bank waits at its port for the first. -/
theorem test_meets_RelaxedTransport_turn : ({ sm [] with net := [globLoad, globLoad] } : State).portTurn 1 0 globLoad
    { loc := .glob 0x10008, n := 8, op := .rd, pos := 0, off := 0, ra := 0 } = false := by decide
theorem test_meets_RelaxedTransport_request : ∃ r, (netOf globLoad (sm [])).tlbHit 0 0 0x10008 = none ∧
    (netOf globLoad (sm [])).walk 0 0x10008 = .request r := ⟨_, rfl, rfl⟩
theorem test_meets_RelaxedTransport_router : (sm []).linked 0 = true ∧ (netOf sentLoad (sm [])).ejects 0 (.core 1 0) 8 = none ∧
    ((sm []).modCore 1 (fun k => { k with tag := 3 })).ejects 2 (.core 1 0) 8 = some (0, 3, 1, 0) := by decide
theorem test_meets_RelaxedTransport_bank : (netOf (loadIn .arrived) (sm [])).inOrder 0 0 (loadIn .arrived)
      { loc := .core 1 0, n := 8, op := .rd, pos := 0, off := 0, ra := 0, stage := .arrived } = true ∧
    ∃ t, (netOf (loadIn .arrived) (sm [])).bank 0 (.core 1 0) 8 .rd = .ok t 0 := ⟨by decide, _, rfl⟩

/-! ## Floating point and lanes -/

def sc (ty : Ty) : P1 := { ty := ty, sc := true, mask := 0 }

theorem test_meets_FloatScalarForms : readO (sm [0, 1, 2, 3]) (.g 1) = .ok (1, sm [0, 1, 2, 3]) ∧
    (0 : Fl) &&& (sm []).cth.fctl.te = 0 ∧ (floatOps (sm []) (sc .f32) (.g 1) (.g 2) (.g 3) none .f64).length = 24 := ⟨rfl, by decide, rfl⟩
theorem test_meets_FloatVectorForms : ∀ e ∈ floatOps (sm []) (p1 .f32 0) (.v 1) (.v 2) (.v 3) none .f64, laneSources (sm []) e 1 (.op (.v 2)) (.v 3) 0 0 0 := by
  intro e _
  exact ⟨fun _ => rfl, rfl, fun _ => rfl⟩
theorem test_meets_IntegerLanes : ∀ e ∈ intOps (p1 .i32 0) 1 (.op (.v 2)), laneSources (sm []) e 1 (.op (.v 2)) (.v 0) 0 0 0 := by
  intro e _
  exact ⟨fun _ => rfl, rfl, fun _ => rfl⟩

/-- The flag traps all enabled; v1 holds f32 1 and v2 an f32 signalling NaN in lane 0. -/
def smFlag : State := smT [] (fun t => { t with fctl := { t.fctl with te := 0x7F }, v := vset (vset t.v 1 0x3F800000) 2 0x7F800001 })

theorem test_meets_FlagTraps : allFlags (lanesOf smFlag (p1 .f32 0) 16) (fun i =>
    (rounded .f32 .rne false (fpAdd .rne (decodeF .f32 (lane 32 smFlag.cth.v[1] i)) (decodeF .f32 (lane 32 smFlag.cth.v[2] i)))).2) &&&
      smFlag.cth.fctl.te ≠ 0 ∧
    allFlags (lanesOf smFlag (p1 .n32 0) 16) (fun i => (clampTy .n32 (lane 32 smFlag.cth.v[1] i + lane 32 (BitVec.allOnes 512) i)).2) &&&
      smFlag.cth.fctl.te ≠ 0 := by decide +kernel
/-- 1 / 0 with every trap enabled. -/
theorem test_meets_FlagTraps_scalar : (rounded .f64 .rne false (fpDiv (decodeF .f64 0x3FF0000000000000) (decodeF .f64 0))).2 &&& 0x7F ≠ 0 ∧
    readO (sm [0, 0x3FF0000000000000]) (.g 1) = .ok (0x3FF0000000000000, sm [0, 0x3FF0000000000000]) ∧
    ∃ u, writeO (sm [0, 0x3FF0000000000000]) (.g 1) 5 = .ok u := ⟨by decide, rfl, _, rfl⟩
theorem test_meets_Comparisons : readLanes (sm []) 32 (.v 2) = .ok 0 ∧ readO (sm [0, 1]) (.g 1) = .ok (1, sm [0, 1]) ∧
    ∃ u, writeO (sm []) (.g 3) 1 = .ok u := ⟨rfl, rfl, _, rfl⟩
theorem test_meets_Rounding : decodeF .f32 0x3F800000 = .fin false 0x800000 (-23) ∧ decodeF .e4m3 0x01 = .fin false 1 (-9) ∧
    decodeF .e4m3 0x7E = .fin false 14 5 ∧ 1 * 2 ^ 3 < 9 ∧ 9 < (1 + 1) * 2 ^ 3 := by decide
theorem test_meets_SpecialResults : (Fp.inf true).isSig = false ∧ (decodeF .f32 0x7FC00000).isNan = true ∧ (decodeF .f32 0x80000000).isZero = true ∧
    (decodeF .f32 0x3F800000).isNan = false ∧ 0x7FC00000 < 2 ^ (floatFmt .f32).w := by decide
theorem test_meets_LaneMovement : readLanes (sm []) 8 (.v 2) = .ok 0 ∧ (sm []).vPending 9 0 = false ∧ (sm []).gPending 9 (gOf 15) = false :=
  ⟨rfl, by decide, by decide⟩
theorem test_meets_LaneCombination : readLanes (sm []) 8 (.v 2) = .ok 0 ∧ (sm []).vPending 9 7 = false ∧ (0 : Nat) ∈ lanesOf (sm []) (p1 .i8 0) 16 ∧
    loTy .i32 ≤ 0 ∧ 0 ≤ hiTy .i32 := ⟨rfl, by decide, by decide, by decide, by decide⟩
theorem test_meets_LaneCombination_traps : fSAT &&& smFlag.cth.fctl.te ≠ 0 ∧ (fNV : Fl) &&& (sm []).cth.fctl.te = 0 ∧ (sm []).issuing ∧
    redLanes (sm []) (p1 .f32 0) 0 ≠ [] := by unfold State.issuing; decide
theorem test_meets_NarrowFormats : (sm []).cth.fctl.te = 0 ∧ (sm []).vPending 9 1 = false := by decide
theorem test_meets_NarrowFormats_baddq : (sm []).blockCheck (own 64) 4 = .ok () ∧ (sm []).blockCheck (own 128) 8 = .ok () ∧
    (sm []).cur.split = false ∧ (sm []).cth.trail = [] ∧
    ∃ s1 s2 s3 a b z, (sm []).viaAddress (own 128) 64 .rd (own 128) = .ok (s1, a) ∧ s1.viaAddress (own 192) 64 .rd (own 192) = .ok (s2, b) ∧
      s2.viaAddress (own 64) 64 (.wr 7 (fullMask 64)) (own 64) = .ok (s3, z) ∧ s2.cth.fctl = (sm []).cth.fctl :=
  ⟨rfl, rfl, rfl, rfl, _, _, _, _, _, _, rfl, rfl, rfl, rfl⟩
theorem test_meets_NarrowFormats_keep : (sm []).blockCheck (own 64) 12 = .ok () ∧
    ∃ s3 old, (sm []).viaAddress (own 64) 64 .rd (own 64) = .ok (s3, old) ∧ s3.cth.fctl = (sm []).cth.fctl := ⟨rfl, _, _, rfl, rfl⟩
/-- 2^200 fits no e4m3 image under the scale 0. -/
theorem test_meets_NarrowFormats_trap : (packImage .e4m3 .rne false 0 (fun i => if i < 1 then some (.fin false 1 200) else none)).2.foldl
    (fun f e => f ||| e.2) 0 &&& 0x7F ≠ 0 := by decide +kernel
theorem test_meets_FlagTraps_registers : (4 : Dword).toNat % 8 < 5 ∧ 5 ≤ (5 : Dword).toNat % 8 ∧ (sm []).cth.deferred = [] ∧
    (smT [] (fun t => { t with deferred := [⟨6, 4, 0, none, 0, 0⟩] })).cth.deferred = [⟨6, 4, 0, none, 0, 0⟩] := by decide

/-! ## Copies and the matrix unit -/

theorem test_meets_CopyKicks : (∀ r, (sm []).gPending 9 r = false) ∧ (sm []).drained 9 = true ∧ (smLoad []).drained 9 = false ∧
    ({ sm [] with lct := [(0, BitVec.ofNat 64 (2 ^ 63))] } : State).place 0 0 2 64 = some (.core 0 64) ∧ noticeRoom [] 0 = true := by decide

/-- A copy of 300 bytes from byte 4096 to byte 200 of core 0's store. -/
def aCopy : Copy := { kind := .copy, iss := sentLoad.iss, port := 0, dst := own 200, src := own 4096, cnt := 300, pws := [0], rows := 1, dstr := 0, sstr := 0, swz := 0 }

theorem test_meets_CopyKicks_full :
    noticeRoom (List.replicate 4 { aCopy with kind := .notice, own := true } ++ List.replicate 12 { aCopy with kind := .notice }) 0 = false ∧
    noticeRoom (List.replicate 16 { aCopy with kind := .notice }) 0 = true := by decide
/-- Logical core 0 of partition 0 in package 1, behind a link that is down. -/
def farTable : State := { sm [] with lct := [(lctKey 0 1 0, BitVec.ofNat 64 (2 ^ 63))] }
theorem test_meets_CopyKicks_link : farTable.place 0 0 2 (2 ^ 40 + 64) = some (.core 4096 64) ∧
    farTable.place 0 0 4 (2 ^ 40 + 64) = some (.clu (cluOf 4096) 64) ∧ farTable.linked (cluPkg (cluOf 4096)) = false ∧
    (sm []).linked (cluPkg 0) = true := by decide +kernel
theorem test_meets_CopyWork_link : (sm []).linked ((sm []).copyHome { aCopy with iss := { aCopy.iss with core := 4096 } }) = false ∧
    (sm []).linked ((sm []).copyHome aCopy) = true := by decide +kernel
theorem test_meets_CopyWork : aCopy.refusal = none ∧ ({ aCopy with src := 0 } : Copy).refusal = some 0 ∧ ({ aCopy with cnt := 0 } : Copy).refusal = none := by
  decide
theorem test_meets_CopyWork_chunk : (match (sm []).runs [] (({ aCopy with checked := true } : Copy).move 0 0 56) with
    | .ok _ => true
    | .error _ => false) = true := by decide +kernel
/-- R218: of a copy of two rows either may move first; the row passed over is then the next. -/
theorem test_meets_CopyWork_order : ({ aCopy with checked := true, cnt := 56, rows := 2, dstr := 64, sstr := 64 } : Copy).chunks[1]? = some (1, 0, 56) ∧
    (({ aCopy with checked := true, cnt := 56, rows := 2, dstr := 64, sstr := 64 } : Copy).taken 1).chunks = [(0, 0, 56)] ∧
    (match (sm []).runs [] (({ aCopy with checked := true, cnt := 56, rows := 2, dstr := 64, sstr := 64 } : Copy).move 1 0 56) with
      | .ok _ => true
      | .error _ => false) = true := by decide +kernel
theorem test_meets_CopyWork_count : (match [own 32].foldlM (fun u p => (State.runs u [] (Eng.phase aCopy.req p 56 0)).map (fun x => x.2)) (sm []) with
    | .ok _ => true
    | .error _ => false) = true := by decide +kernel
theorem test_meets_CopyWork_notice : (((sm []).modClu 0 (fun k => { k with notices := [{ aCopy with kind := .notice }] })).clu 0).notices =
    [{ aCopy with kind := .notice }] := by decide
theorem test_meets_MatrixKicks : (sm []).drained 9 = true ∧ ((sm []).core 0).mx.held < 8 ∧ mxProgOk 0 = true ∧ mxProgOk 1 = false ∧
    ((sm []).core 0).mx.names 0 = false := by decide

/-- The operation MXZERO of accumulator 1 as kicked from the small state. -/
def zeroOp : MxOp := (sm []).mxOp (.mxzero 1) []
/-- The small state with core 0's unit changed. -/
def smMx (f : Mx → Mx) : State := (sm []).modCore 0 (fun k => { k with mx := f k.mx })

theorem test_meets_MatrixKicks_full : 8 ≤ ((smMx (fun m => { m with ops := List.replicate 8 zeroOp })).core 0).mx.held ∧
    ((smMx (fun m => { m with ops := [zeroOp] })).core 0).mx.names 1 = true := by decide
theorem test_meets_MatrixUnit_take : ((smMx (fun m => { m with kicks := [zeroOp] })).core 0).mx.kicks = [zeroOp] ∧ mxIsCompute zeroOp.ins = true ∧
    ((sm []).mxOp (.mxcfg 3 1) [7]).args = [7] := by decide
theorem test_meets_MatrixUnit_start : ∃ t, (sm []).runs ((sm []).core 0).mx.starting
    (mxCompute (mxReq 0 zeroOp) zeroOp ((sm []).core 0).mx.acc) = .ok ((1, {}, 0, 0), t) := ⟨_, rfl⟩
theorem test_meets_MatrixUnit_complete : ((smMx (fun m => { m with run := some ⟨zeroOp, 0, 0, some 1, none⟩ })).core 0).mx.run =
    some ⟨zeroOp, 0, 0, some 1, none⟩ := by decide

def goCmd (cap : Dword) : RCmd :=
  { cap := cap, target := 0, cmd := 8, val := 0, op := (sm []).mxOp (.mxrcmd 0) [], dest := some 0 }

theorem test_meets_MatrixUnit_refused : (goCmd 0).dest = some 0 ∧ (∃ ins right, rcmdInstr 8 0 = some (ins, right) ∧
    bitAt (goCmd 0).cap.toNat right = false) ∧ rcmdInstr 80 0 = none ∧ 2048 ≤ (5000 : Dword).toNat ∧
    ({ goCmd 0 with dest := none } : RCmd).dest = none := ⟨rfl, ⟨_, _, rfl, by decide⟩, rfl, by decide, rfl⟩

/-- Two 1-row f64 tiles in core 0's store, with the words of an MMA of one step on them. -/
def tiles : State := (sm []).modCore 0 (fun k => { k with
  mem := wrLE (wrLE (wrLE (wrLE [] 0x100 0x010000110000000F 8) 0x110 0x4000000000000000 8) 0x200 0x020000110000000F 8) 0x210 0x4008000000000000 8 })
def mmaOp : MxOp := (sm []).mxOp (.mma 1 false (some .f64) 1 2 none 1) [0x100, 0x200, 0]

-- R226, R227: 1 + 2 × 3 in entry (0, 0), the other entries keep their value, the tag is f64
theorem test_mma : (match tiles.runs [] (mxCompute (mxReq 0 mmaOp) mmaOp (vset (Vector.replicate 4 {}) 1 { c := [(0, 0x3FF0000000000000)], tag := 0 })) with
    | .ok ((o, x, fl, _), _) => o == 1 && x.c == [(0, 0x401C000000000000)] && x.tag == 0 && fl == 0
    | .error _ => false) = true := by decide +kernel
theorem test_meets_MatrixArithmetic : (match tiles.runs [] (mxRunJob (mxReq 0 mmaOp) mmaOp (mmaJob 1 false (some .f64) 1 mmaOp.args mmaOp.p) 0 0 {}) with
    | .ok _ => true
    | .error _ => false) = true ∧ (mmaJob 1 false (some .f64) 1 mmaOp.args mmaOp.p).steps ≠ 0 ∧ (mmaJob 1 false (some .f64) 1 mmaOp.args mmaOp.p).out = none ∧
    (mmaJob 1 false (some .f64) 0 mmaOp.args mmaOp.p).steps = 0 ∧ mmaOp.ins = .mma 1 false (some .f64) 1 2 none 1 ∧
    (tab 8 (fun _ => (none : Option (Nat × Nat)))).length = 8 := by decide +kernel
theorem test_meets_MatrixArithmetic_load : (let op : MxOp := (sm []).mxOp (.mxldc 1 0 2) [0x100]
    match tiles.runs [] (mxCompute (mxReq 0 op) op (Vector.replicate 4 {})) with
    | .ok ((_, x, _, _), _) => mget 0 2 x.c == 0x4000000000000000
    | .error _ => false) = true := by decide +kernel
-- R240: entry (0, 1) of an f64 accumulator stored as f32; under the mask, with no row, every entry is −∞
theorem test_meets_MatrixArithmetic_store : (let op (msk : Bool) : MxOp := { (sm []).mxOp (.mxstc 1 msk 1 2 .f32 none) [0x100, 32, 0] with snap := some (Vector.replicate 8 0, 0, 0) }
    [false, true].all (fun msk => match (sm []).runs [] (mxCompute (mxReq 0 (op msk)) (op msk) (vset (Vector.replicate 4 {}) 1 { c := [(1, 0x4000000000000000)], tag := 0 })) with
    | .ok (_, t) => rdLE (t.core 0).mem 0x104 4 == if msk then 0xFF800000 else 0x40000000
    | .error _ => false)) = true := by decide +kernel

/-! ## Encodings and fetching -/

theorem test_meets_DecodeEncode : Instr.wf (.add (.g 1) (.imm (2 ^ 44 - 1))) = true ∧ Instr.wf (.add (.g 1) (.imm (-(2 ^ 44)))) = true ∧
    Instr.wf (.br (2 ^ 49 - 1)) = true ∧ Instr.wf (.gwtake 1 2) = true := by decide
theorem test_meets_DecodeAnswers : (match decode false [0xF000, 0x0000] with | .error e => e.idx == 1 && e.reason == 6 | .ok _ => false) = true ∧
    (match decode false [0x2C00] with | .ok (_, n) => n == 1 | .error _ => false) = true := by decide
theorem test_meets_IllegalGroups : isPrefixWord 0xFBFF = true ∧ isPrefixWord 0xF000 = true ∧ ((sm []).thread? 0 0).isSome = true ∧
    (smT [] (fun t => { t with sg := vset t.sg 0 {} })).cth.sg[0].rights.getLsbD 1 = false ∧
    (smT [] (fun t => { t with pc := 0x80000 })).cth.sg[0].limit.toNat ≤ (smT [] (fun t => { t with pc := 0x80000 })).cth.pc.toNat := by decide

/-- The small state with `add g1, g2` at its program counter and the move that issues it. -/
def ready : State := { code [0x0422] (sm [0, 3, 4]) with moves := [.issue 0 0] }

theorem test_meets_StepRunsDecoded : ready.boot.halt = none ∧ ready.stopDue (ready.core 0).tag.val = false ∧ ready.rested 0 0 = true ∧
    (ready.thread 0 0).sg[0].rights.getLsbD 1 = true ∧ rdB (ready.core 0).mem 0 = 0x22 ∧ rdB (ready.core 0).mem 1 = 0x04 ∧
    ready.inLocal 0 (ready.thread 0 0) 0 2 = true ∧ reads (isGateway 0) [0x0422] (.add (.g 1) (.op (.g 2))) = true := by decide
theorem test_step_add : (match step ready with | .next t => (t.thread 0 0).g[1] == 7 && (t.thread 0 0).pc == 2 && t.counter == 1 | _ => false) = true := by
  decide +kernel
theorem test_meets_IssueOrder : (th []).atBoundary = true ∧ (sm []).rested 0 0 = true ∧
    ((sm []).noteIssue 0 0).rested 0 0 = false ∧ { (sm []).noteIssue 0 0 with counter := 3 }.rested 0 0 = false ∧
    { (sm []).noteIssue 0 0 with counter := 4 }.rested 0 0 = true := by decide
theorem test_meets_IssueOrder_move : ({ State.reset with boot := {}, cores := [], wakes := [⟨none, 0, 0⟩] } : State).autoMove = some (.event (.wakeArrival 0)) := by
  decide +kernel
theorem test_meets_StepKeepsStores : ready.memoriesWf ∧ (match step ready with | .next _ => true | _ => false) = true :=
  ⟨⟨by decide, by decide, by decide⟩, by decide +kernel⟩

/-! ## Engines -/

theorem test_meets_WaitingEngines : (sm []).cth.posted = none ∧ (∀ q, (sm []).gPending 9 q = false) ∧ isGateway 2052 = true ∧ isGateway 0 = false ∧
    (15 : Dword).toNat < 16 ∧ 16 ≤ (16 : Dword).toNat ∧ (smLoad []).drained 9 = false ∧
    (smT [] (fun t => { t with posted := some { res := [(1, 5)], err := none } })).cth.posted = some { res := [(1, 5)], err := none } ∧
    (smT [] (fun t => { t with posted := some { res := [], err := some 5 } })).cth.posted = some { res := [], err := some 5 } := by decide

/-- An operation of the small state's thread with these operand values. -/
def eop (i : Instr) (l : List Dword) : EngOp := { ins := i, args := l, iss := sentLoad.iss }
/-- The small state with operations at cluster 0's rope engine and its generation table unit. -/
def smRope (o : EngOp) : State := (sm []).modClu 0 (fun k => { k with ropeq := [o] })
def smGen (o : EngOp) : State := (sm []).modClu 0 (fun k => { k with genq := [o] })
def smGw (o : EngOp) (q : Flow) : State := (sm []).modPort 0 (fun k => { k with gwq := [o], flows := [(3, q)] })
/-- An operation of partition 2, which owns acceptance entry 3 and has a table of shapes. -/
def eopTwo (i : Instr) (l : List Dword) : EngOp := { eop i l with iss := { sentLoad.iss with tag := 2 } }
def ofTwo (i : Instr) (l : List Dword) (n : Nat) : State := (smGen (eopTwo i l)).modClu 0 (fun k =>
  { k with accasn := [(3, 2)], shapes := if n = 0 then [] else [(32, { count := n })] })

theorem test_meets_EngineService_rope :
    (match (smRope (eop (.rplen 1 2) [0])).runs [] (ropeBody 0 (eop (.rplen 1 2) [0])) with
      | .ok (out, _) => out.regs == [(1, 0)]
      | .error _ => false) = true ∧
    (match (smRope (eop (.rplen 1 2) [5])).runs [] (ropeBody 0 (eop (.rplen 1 2) [5])) with
      | .error (.refused _ _) => true
      | _ => false) = true := by decide +kernel
theorem test_meets_EngineService_gen :
    ((ofTwo (.spobs 1 2) [3, 255] 7).clu 0).genq = [eopTwo (.spobs 1 2) [3, 255]] ∧ cluIdx 0 < 32 ∧ (3 : Dword).toNat < 256 ∧
    (eopTwo (.spobs 1 2) [3, 255]).iss.tag ≠ 0 ∧ (mget 0 3 ((ofTwo (.spobs 1 2) [3, 255] 7).clu 0).accasn).val = (eopTwo (.spobs 1 2) [3, 255]).iss.tag ∧
    255 < (256 : Dword).toNat ∧ (65535 : Dword).toNat < 65536 := by decide
theorem test_meets_EngineService_shape : (eopTwo (.spshape 1 2) [3]).iss.tag ≠ 0 ∧
    (mget 0 3 ((ofTwo (.spshape 1 2) [3] 7).clu 0).accasn).val = (eopTwo (.spshape 1 2) [3]).iss.tag ∧
    (mget ({} : Shape) (16 * (eopTwo (.spshape 1 2) [3]).iss.tag + min 15 ((mget 0 3 ((ofTwo (.spshape 1 2) [3] 7).clu 0).accavg).toNat / 64))
      ((ofTwo (.spshape 1 2) [3] 7).clu 0).shapes).count = 7 ∧
    (mget ({} : Shape) (16 * 2) ((ofTwo (.spshape 1 2) [3] 0).clu 0).shapes).count = 0 := by decide
theorem test_meets_EngineService_gw : (mget {} (flowKey 0 3) ((smGw (eop (.gwtake 1 2) [3]) { ready := [4, 5] }).port 0).flows).ready = [4, 5] ∧
    (smGw (eop (.gwtake 1 2) [3]) {}).findUid 9 = some (0, 0) ∧ (smGw (eop (.gwtake 1 2) [3]) {}).stopping 9 = false ∧
    (smGw (eop (.gwtake 1 2) [3]) {}).returned 9 = true ∧ (smT [] (fun t => { t with ctl := .stopReq })).stopping 9 = true := by decide
theorem test_meets_EngineService_post : (smT [] (fun t => { t with wait := .mail .engine })).findUid 9 = some (0, 0) ∧
    (smT [] (fun t => { t with wait := .mail .engine })).lookUid 9 = some (smT [] (fun t => { t with wait := .mail .engine })).cth := ⟨by decide, rfl⟩
theorem test_meets_DrawsAndAcceptance : (2 ^ 32 - 1 : Dword).toNat < 2 ^ 32 ∧ 2 ^ 32 ≤ (2 ^ 32 : Dword).toNat ∧ raSpace (own 32) = 1 ∧
    raRights (own 32) &&& 8 ≠ 0 ∧ inReach 0 ((sm []).place 0 0 1 32) = true ∧ (own 32).toNat % 32 = 0 ∧ (own 33).toNat % 32 ≠ 0 := by decide
theorem test_meets_DrawsAndAcceptance_count : ∃ s1 s2 es, ((sm []).modCore 0 (fun k => { k with mem := [(32, 1)] })).viaAddress (own 32) 32 .rd (own 32) =
    .ok (s1, 1) ∧ acceptFrom viaWhole 0 (own 32) 1 1 0 s1 = .ok (s2, es) := ⟨_, _, _, rfl, rfl⟩

/-! ## Traps and threads -/

theorem test_meets_TrapEntry : ((sm []).thread? 0 0).isSome = true ∧ isGateway 0 = false ∧ (sm []).attached 0 = false ∧
    ((sm []).modIo (fun io => { io with dbg := [0] })).attached 0 = true ∧ (th []).handler = 0 ∧
    (sm []).inLocal 0 { th [] with handler := 0x100 } 0x100 2 = true := by decide
theorem test_meets_TrapEntry_escape : ∃ m, (travels (sm [])).segMap? 0 (th []) = some m ∧ m.segOf 0x100 = none := ⟨_, rfl, rfl⟩
theorem test_meets_TrapInstructions : (sm []).readable [1, 2] ∧ (sm []).cth.xstat.h = false ∧
    (smT [] (fun t => { t with xstat := { t.xstat with h := true } })).cth.xstat.h = true ∧ (0x3FFFE : Dword).toNat < 0x40000 ∧
    0x40000 ≤ (0x40000 : Dword).toNat ∧ (sm []).cth.sg[0].limit.toNat < 0x80000 + 1 ∧ 0x80000 + 0 ≤ (sm []).cth.sg[0].limit.toNat :=
  ⟨by unfold State.readable; decide, by decide, by decide, by decide, by decide, by decide, by decide⟩

/-- A launch of one thread, its checkpoint 7 listed. -/
def aLaunch : Launch :=
  { image := 0, imglen := 16, entry := 0, levels := [], shares := [], winbytes := 0, claim := 16, queues := [], links := [], travel := false,
    retry := false, segs := defaultSegs.toList, segmap := 0, chk := [⟨7, []⟩], handler := 0, origin := 0, args := [0, 0, 0, 0], packet := [0, 0, 0, 0] }
/-- A graph of id 0 and partition 0 with these nodes. -/
def aGraph (ns : List Node) : Graph :=
  { gid := some 0, part := 0, record := 0, nodesA := 0, mbox := 0, flist := 0, flcap := 0, pw := 0, nodes := ns, parent := none, gstate := 0 }
/-- A node in a state. -/
def aNode (k : NKind) (st : NState) : Node := { kind := k, need := 1, budget := 2, state := st, succ := [], arg := 0, launch := some aLaunch }
/-- Six nodes of one kind and state: the small state's thread is of node 5. -/
def smNodes (k : NKind) (st : NState) : State := { sm [] with graphs := [(0, aGraph (List.replicate 6 (aNode k st)))] }

theorem test_meets_ThreadInstructions : (sm []).issuing ∧ (∀ q, (sm []).gPending 9 q = false) ∧ (sm []).drained 9 = true ∧ (sm []).returned 9 = true ∧
    (sm []).cth.posted = none ∧ (sm []).cth.sysc = .none ∧ (sm []).engineBusy 9 = false ∧ (smMx (fun m => { m with kicks := [zeroOp] })).engineBusy 9 = true ∧
    (({ sm [] with lct := [(0, BitVec.ofNat 64 (2 ^ 63))] } : State).lcore 0 0 0) = some 0 ∧ (sm []).lcore 0 0 0 = none :=
  ⟨by unfold State.issuing; decide, by decide, by decide, by decide, by decide, by decide, by decide, by decide, by decide, by decide⟩
theorem test_meets_ThreadInstructions_graph : ∃ gk g l b u, (smNodes .kernel .waiting).graphOf (5 / 4096) = some (gk, g) ∧
    (smNodes .kernel .waiting).launchOf (some 5) = some l ∧ l.chk.any (fun x => x.number == 7) = true ∧
    Eng.token 0 5 (smNodes .kernel .waiting) = .ok (b, u) := ⟨_, _, _, _, _, rfl, rfl, rfl, rfl⟩
theorem test_meets_ThreadInstructions_stop : ({ sm [] with stops := [⟨0, 9, false⟩] } : State).stopPending 0 = true ∧ (sm []).stopPending 0 = false := by
  decide
theorem test_meets_ThreadEvents_judge : (smNodes .kernel .running).judge 0 (th []) = .ok 1 ∧
    ((smNodes .kernel .running).modCore 0 (fun k => { k with quota := 1 })).judge 0 (th []) = .error (-2) ∧
    ((smNodes .kernel .running).modCore 0 (fun k => { k with slots := tab 32 (fun n => (n, th [])) })).judge 0 (th []) = .error (-1) := ⟨rfl, rfl, rfl⟩

/-- A spawn on core 0 that waits for its answer. -/
def aSpawn : SpawnReq := { iss := sentLoad.iss, d := 1, target := some 0, entry := 0x40, child := th [] }

theorem test_meets_ThreadEvents_spawn : (smNodes .kernel .running).allocate aSpawn = .ok (0, 1) ∧ (smNodes .kernel .running).spawnEjected aSpawn = none ∧
    ∃ x, (smNodes .kernel .running).nodeOf 5 = some x := ⟨rfl, rfl, _, rfl⟩
theorem test_meets_ThreadEvents_ejected : (({ aSpawn with iss := { aSpawn.iss with tag := 2 } } : SpawnReq).iss.tag ≠ 0 ∧
    ((sm []).core 0).tag.val ≠ 2 ∧ aSpawn.target = some 0 ∧ (sm []).cth.uid = aSpawn.iss.uid) := by decide
theorem test_meets_ThreadEvents_refused : ((smNodes .kernel .running).modCore 0 (fun k => { k with quota := 1 })).allocate aSpawn = .error (-2) := rfl
theorem test_meets_ThreadEvents_slot : (on 0 { th [] with wait := .starting, node := none }).imageReady 0 { th [] with node := none } = true ∧
    (smT [] (fun t => { t with ctl := .stopReq })).cth.ctl = .stopReq ∧ (smT [] (fun t => { t with sysc := .asked, wait := .mail .sysc })).cth.sysc = .asked := by
  decide

/-! ## Travel and saved contexts -/

/-- The travelling state with 64 granary places of partition 0 in cluster 0. -/
def grans (s : State) : State := (travels s).modClu 0 (fun k => { k with gran := [(0, 1)] })

theorem test_meets_FarBranches : (travels (sm [])).readable [1, 2] ∧ (∃ m x, (travels (sm [])).segMap? 0 (th []) = some m ∧ m.segOf 128 = none ∧
    m.segOf 64 = some (1, x) ∧ m.localSeg 0 ≠ none) ∧ (grans (sm [])).freePlace 0 0 = some 0 ∧ (travels (sm [])).freePlace 0 0 = none :=
  ⟨by unfold State.readable; decide, ⟨_, _, rfl, rfl, rfl, by decide⟩, by decide, by decide⟩
theorem test_meets_FarBranches_choose : ∃ m e h, (grans (sm [])).segMap? 0 (th []) = some m ∧ m.segOf 64 = some (1, e) ∧
    (grans (sm [])).choose m e 0 = some h ∧ ∀ x, m.localSeg 0 ≠ some (1, x) := ⟨_, _, _, rfl, rfl, rfl, fun _ h => by cases h⟩

/-- A context of no node in a packet for core 1. -/
def aPacket : Packet := { ctx := { th [] with node := none, uid := 10 }, dest := 1 }
/-- It as a saved context of place 0 of partition 0. -/
def aSaved : Saved := { ctx := aPacket.ctx, core := 1, slot := 0, set := 0, part := 0, kind := 3, sealed := false, written := false, age := 0 }
def withPlace (x : Saved) : State := (grans (sm [])).modClu 0 (fun k => { k with places := [(0, x)] })
/-- Pages of partition 0's granary are mapped. -/
def granPages (s : State) : State := s.modClu 0 (fun k => { k with tlb := [0, 1, 9].map (fun p => ⟨0, false, p, 0x1013F + 0x10000 * p⟩) })

theorem test_meets_TravelAndSaving : (sm []).holds 1 aPacket.ctx = true ∧ (sm []).taggedFor 1 = [] ∧ ((sm []).core 1).freeSlot = some 0 ∧
    ((sm []).core 1).arrq = [] ∧ ((sm []).modCore 1 (fun k => { k with arrq := List.replicate 15 aPacket.ctx })).holds 1 aPacket.ctx = true := by decide
theorem test_meets_TravelAndSaving_granary : ∃ x, (withPlace aSaved).oldestFor 1 = some (0, x) ∧ x = aSaved ∧ (withPlace aSaved).engineBusy 10 = false :=
  ⟨_, rfl, rfl, by decide⟩
theorem test_meets_TravelAndSaving_wait : (smT [] (fun t => { t with wait := .poll .granary, gwait := some (0, false) })).cth.gwait = some (0, false) := by
  decide

/-! ## Privileged state -/

/-- Service core 0 with a thread on these registers. -/
def sv (l : List Dword) : State := on 2048 { th l with node := none }

theorem test_meets_PrivilegedInstructions : isService 2048 = true ∧ isService 2051 = true ∧ isService 2052 = false ∧ isService 2047 = false ∧
    (sv []).drained 9 = true ∧ (sv []).returned 9 = true ∧ (sv []).readable [1, 2] ∧ regAddrOk 0x10000 = false ∧ regAddrOk 0x800 = true :=
  ⟨by decide, by decide, by decide, by decide, by decide, by decide, by unfold State.readable; decide, by decide, by decide⟩
theorem test_meets_PrivilegedInstructions_pwr : (sv []).cur.split = false ∧ (sv []).cth.poisoned = none ∧
    ∃ u, (sv []).runs (sv []).cth.trail (Eng.regWrite 0x100 7) = .ok ((), u) := ⟨rfl, rfl, _, rfl⟩
theorem test_meets_PrivilegedInstructions_slots : (sv []).slotOf 32 = none ∧ (sv []).slotOf 31 = some (0, 31) ∧ (sv []).slotOf 0x80000000000 = none ∧
    ((sv []).thread? 0 31).isSome = false ∧ (smT [] id).takeable (th []) = true ∧ (grans (sm [])).freePlace (cluOf 0) ((grans (sm [])).core 0).tag.val = some 0 ∧
    (sm []).freePlace (cluOf 0) ((sm []).core 0).tag.val = none ∧ (granPages (grans (sm []))).mayStore 0 0 aSaved = true := by decide +kernel
/-- A saved set of partition 1 with core 3; core 3 is not yet retagged for it, or is and empty. -/
def savedSet (tag : Fin 16) : State :=
  { (sv []).modCore 3 (fun k => { k with tag := tag }) with sets := [(1, { cores := [(3, 0, 0)] })] }
theorem test_meets_PrivilegedInstructions_set : (0x8000000000000001 : Dword).toNat % 2 ^ 63 = 1 ∧ (mfind 1 (savedSet 1).sets).isSome = true ∧
    ((savedSet 0).core 3).tag.val ≠ 1 ∧ ((savedSet 1).core 3).tag.val = 1 ∧ ((savedSet 1).core 3).slots = [] ∧ ((savedSet 1).core 3).arrq = [] ∧
    (mfind 2 (savedSet 1).sets) = none := by decide +kernel
theorem test_meets_PrivilegedInstructions_load : (sv []).contextOf 0 0 = none ∧ (sv []).regionOf 0 0 = none ∧
    (grans (sv [])).contextOf 0 1 = none ∧ (grans (sv [])).regionOf 0 1 = some (0, 0, 1) ∧
    (match (withPlace { aSaved with kind := 1, sealed := true }).contextOf 0 0 with
      | some (k, n, y) => y.sealed && (match ((withPlace { aSaved with kind := 1, sealed := true }).modClu 0
            (fun k => { k with tlb := [⟨0, false, 1, 0x2013F⟩] })).runs [] (Eng.slotld 0 2 k n y) with
        | .ok _ => true
        | .error _ => false)
      | none => false) = true ∧
    (mfind (5 : Nat) (sv []).sets).isNone = true ∧ (2 ^ 63 : Dword).getLsbD 63 = true := by decide +kernel
theorem test_meets_PrivilegedInstructions_stop : tenantOf 0 = none ∧ tenantOf 13 = none ∧ tenantOf 1 = some 1 ∧ tenantOf 12 = some 12 ∧
    (sv []).stopFired 1 = false := by decide
theorem test_meets_PrivilegedInstructions_flush : (∃ c ∈ ((sv []).modCore 3 (fun k => { k with tag := 1 })).coresOf 1,
      (((sv []).modCore 3 (fun k => { k with tag := 1 })).core c).halted = false) ∧
    (∀ c ∈ ((sv []).modCore 3 (fun k => { k with tag := 1, halted := true })).coresOf 1,
      (((sv []).modCore 3 (fun k => { k with tag := 1, halted := true })).core c).halted = true) ∧
    ∃ n u, ((sv []).modCore 3 (fun k => { k with tag := 1, halted := true })).runs [] (Eng.flush 1 [3]) = .ok (n, u) :=
  ⟨⟨3, by decide, by decide⟩, by decide, _, _, rfl⟩
theorem test_meets_PrivilegedInstructions_page : (sv []).requestOf 0 = none ∧
    ∃ x, ((sv []).modDie 0 (fun d => { d with reqs := [(0, { part := 1, page := 2, reason := 0, flow := false })] })).requestOf 0 = some x :=
  ⟨by decide, _, rfl⟩
theorem test_meets_PrivilegedInstructions_part : (2047 : Dword).toNat < 2048 ∧ ((sv []).core 2047).slots = [] ∧ ((sm []).core 0).slots ≠ [] ∧
    hopOf 5 = none ∧ hopOf 4 = some 4 ∧ (12 : Dword).toNat % 16 ≤ 12 ∧ 12 < (13 : Dword).toNat % 16 := by decide
theorem test_meets_PrivilegedInstructions_scrub : scrubOf (2 ^ 60 + 1) 0 0 = .illegal ∧ scrubOf (2 ^ 60) 1 0 = .refused ∧ scrubOf (2 ^ 60) 0 0 = .core 0 ∧
    scrubOf 0 0 0 = .refused ∧ scrubOf 0 0xC00000 0 = .frames 0 0 0xC00000 ∧ scrubOf 0 0xC00001 0 = .illegal ∧ (sv []).linked 0 = true := by decide +kernel
theorem test_meets_PrivilegedInstructions_rest : capmkOk 0 = false ∧ capmkOk (2 ^ 60) = true ∧ (2 ^ 45 - 1 : Dword).toNat < 2 ^ 45 ∧
    travCheck ((travels (sv [])).clu 0).maps 0 2 false = 0 ∧ travCheck [] 0 0 true = -1 ∧
    ((sv []).core 2048).ien = true ∧ (((sv []).modCore 2048 (fun k => { k with ien := false })).core 2048).islot.val = 0 := by decide

/-- An interrupt record waits. -/
def interrupted : State := (sv []).modIo (fun io => { io with intq := [7] })

theorem test_meets_ControlEvents_interrupt : (interrupted.thread? 2048 (interrupted.core 2048).islot.val).isSome = true ∧ isService 2048 = true ∧
    (interrupted.core 2048).ien = true ∧ interrupted.io.intq ≠ [] ∧ (th []).interruptible = true ∧ interrupted.io.held = [] ∧ (sv []).io.intq = [] := by decide
theorem test_meets_ControlEvents_log : mget [] 3 ((sv []).modIo (fun io => { io with wlog := [(3, [7, 8])] })).io.wlog = [7, 8] := by decide
theorem test_meets_ControlEvents_stop : (⟨0, 0, false⟩ : Stop) ∈ ({ sm [] with stops := [⟨0, 0, false⟩] } : State).stops ∧ 0 ≤ (sm []).counter ∧
    (smT [] (fun t => { t with ctl := .haltReq .tenant })).cth.ctl = .haltReq .tenant ∧
    (smT [] (fun t => { t with ctl := .haltReq .debug })).cth.ctl = .haltReq .debug := by decide
theorem test_meets_ControlEvents_calendar :
    (⟨4, 63, 15⟩ : CalPending) ∈ ((sv []).modIo (fun io => { io with calPend := [⟨4, 63, 2⟩, ⟨4, 62, 1⟩, ⟨4, 63, 15⟩] })).io.calPend ∧
    ((sv []).modIo (fun io => { io with calPend := [⟨4, 63, 2⟩, ⟨4, 62, 1⟩, ⟨4, 63, 15⟩] })).io.calPend = [⟨4, 63, 2⟩] ++ ⟨4, 62, 1⟩ :: [⟨4, 63, 15⟩] ∧
    ∀ y ∈ [(⟨4, 63, 15⟩ : CalPending)], y.hop = 4 → y.slot ≠ 62 := by decide
theorem test_meets_ControlEvents_scrub : (⟨0, 0, 1, 3⟩ : Scrub).next + 1 < 3 ∧ 3 ≤ (⟨0, 0, 2, 3⟩ : Scrub).next + 1 := by decide
theorem test_meets_ControlEvents_bucket : (({ sv [] with counter := 1024 } : State).die 0).refills < 1024 / 1024 ∧ ((sv []).die 0).qosctl.getLsbD 1 = false := by
  decide

/-! ## Graphs -/

/-- A graph record at global address 0x10000 with one signal node at 0x10080 and its mailbox at 0x10100, in memory behind one leaf of
the scheduler's port. -/
def submitted : State :=
  { (sv [0, 0, BitVec.ofNat 64 (0x5F * 2 ^ 56 + 0x10000)]).modClu 32 (fun k => { k with tlb := [{ part := 0, big := false, page := 1, leaf := 0x2013F }] }) with
    kns := wrLE (wrLE (wrLE (wrLE [] 0x20000 1 8) 0x20020 (0x5F * 2 ^ 56 + 0x10080) 8) 0x20028 (0x5F * 2 ^ 56 + 0x10100) 8) 0x20080 2 8 }

theorem test_meets_Graphs_launch :
    (match (readSubmission (State.schedReq submitted 0 75) 0 (BitVec.ofNat 64 (0x5F * 2 ^ 56 + 0x10000))).run submitted with
      | .ok (.ok gs, t) => gs.length == 1 && (match Eng.submit 0 gs t with
        | .ok (id, _) => id == 0
        | .error _ => false)
      | _ => false) = true := by decide +kernel
theorem test_meets_Graphs_refused : ∃ code t, (readSubmission (State.schedReq (sv []) 0 75) 0 1).run (sv []) = .ok (.error code, t) := ⟨_, _, rfl⟩
theorem test_meets_Graphs_room : 12 < (13 : Dword).toNat ∧ 1024 < ({ submitted with graphs := tab 1024 (fun i => (i, aGraph [])) } : State).graphs.length + 1 := by
  decide +kernel
/-- A GLAUNCH that has read its records, with no graph place free. -/
theorem test_meets_Graphs_wait : (match Eng.launch 0 (BitVec.ofNat 64 (0x5F * 2 ^ 56 + 0x10000)) { submitted with graphs := tab 1024 (fun i => (i, aGraph [])) } with
    | .error (.again _ .room) => true
    | _ => false) = true ∧
    (match State.runs submitted [] (Eng.launch 0 (BitVec.ofNat 64 (0x5F * 2 ^ 56 + 0x10000))) with
      | .ok (x, _) => x == 0
      | .error _ => false) = true := by decide +kernel
theorem test_meets_Graphs_cancel : (sv []).graphOf 0 = none ∧ ∃ u, (smNodes .kernel .waiting).runs [] (fun y =>
    Eng.setGstate 0 2 (y.modGraph 0 (fun g => { g with walks := g.walks ++ [{ queue := [4], seen := [] }], cancelled := true }))) = .ok ((), u) :=
  ⟨by decide, _, rfl⟩
theorem test_meets_Graphs_dispatch : ∃ t, (aGraph (List.replicate 6 (aNode .signal .ready))).dispatchable (aNode .signal .ready) = true ∧
    (smNodes .signal .ready).firstReady 0 0 = true ∧ (smNodes .signal .ready).runs [] (Eng.dispatch 0 5 (aGraph (List.replicate 6 (aNode .signal .ready)))
      (aNode .signal .ready)) = .ok ((), t) := ⟨_, by decide, by decide, rfl⟩
theorem test_meets_Graphs_complete : ∃ t, (smNodes .signal .running).nodeDone 5 (aNode .signal .running) = true ∧
    (smNodes .signal .running).runs [] (Eng.complete 0 5 (aNode .signal .running)) = .ok ((), t) := ⟨_, by decide, rfl⟩
theorem test_meets_Graphs_retry : (smNodes .signal .retrying).nodeQuiet 4 (aNode .signal .retrying) = true ∧
    (smNodes .signal .cancelling).nodeQuiet 4 (aNode .signal .cancelling) = true ∧
    (∃ t, (smNodes .signal .retrying).runs [] (Eng.retryNode 0 4 (aGraph (List.replicate 6 (aNode .signal .retrying))) (aNode .signal .retrying)) =
      .ok ((), t)) ∧
    ∃ t, (smNodes .signal .cancelling).runs [] (Eng.setNode 0 4 { aNode .signal .cancelling with state := .cancelled }) = .ok ((), t) :=
  ⟨by decide, by decide, ⟨_, rfl⟩, _, rfl⟩
theorem test_meets_Graphs_end : ({ sv [] with graphs := [(0, aGraph [aNode .signal .done])] } : State).graphDone (aGraph [aNode .signal .done]) = true ∧
    ∃ t, ({ sv [] with graphs := [(0, aGraph [aNode .signal .done])] } : State).runs [] (Eng.endGraph 0 (aGraph [aNode .signal .done])) = .ok ((), t) :=
  ⟨by decide, _, rfl⟩
theorem test_meets_Graphs_fault : (∃ x, (smNodes .kernel .running).nodeOf 5 = some (0, 5, x)) ∧ (sm []).nodeOf 5 = none ∧
    ∃ t, (smNodes .kernel .running).runs [] (Eng.nodeFault 0 5 (aGraph (List.replicate 6 (aNode .kernel .running))) (aNode .kernel .running)
      ⟨5, 0, 0x11, 0, 0, none⟩) = .ok ((), t) := ⟨⟨_, rfl⟩, by decide, _, rfl⟩
theorem test_meets_Graphs_accept :
    (match ((sv []).modCore 2048 (fun k => { k with mem := wrBytes [] 0 [0x00, 0xFB, 0x22, 0x68] })).fetch 2048 0 with
      | .run _ i => decide (i = .glaunch 1 2)
      | _ => false) = true ∧ (sv []).roomWaiter = none ∧ (on 2048 { th [] with wait := .poll .room }).roomWaiter = some (2048, 0) := by decide +kernel

/-- Partition 0 holds core 0 as logical core 0, and node 5 waits for one group on die 0. -/
def placing : State :=
  { sm [] with lct := [(0, BitVec.ofNat 64 (2 ^ 63))], graphs := [(0, aGraph (List.replicate 5 (aNode .kernel .done) ++
    [{ aNode .kernel .running with groups := [⟨0, none⟩] }]))] }

theorem test_meets_Graphs_place : placing.waiting = [(0, 5, 0)] ∧ placing.fitsNow 0 5 aLaunch 0 = some [[0]] ∧
    (match placing.runs [] (Eng.placing 0 5 0 aLaunch none [[0]]) with
      | .ok (.ok (), _) => true
      | _ => false) = true ∧
    (match placing.runs [] (Eng.placing 0 5 0 { aLaunch with travel := true } none [[0]]) with
      | .ok (.error _, _) => true
      | _ => false) = true := by decide +kernel
theorem test_meets_Graphs_copy : ∃ bs t, (paged (sm [])).runs [] (Eng.rdBuf ((sm []).imageReq 0) (BitVec.ofNat 64 (0x5F * 2 ^ 56 + 0x10000)) 16) =
    .ok (bs, t) ∧ bs.length = 16 := ⟨_, _, rfl, rfl⟩

/-! ## Paging, links, bring-up -/

theorem test_meets_Paging : (({} : Die)).room 1 = true ∧ mfind (0 : Nat) (({} : Die)).reqs = none ∧ (1 : Dword).getLsbD 0 = true ∧ cluPkg 0 = 0 := by decide

/-- Partition 0's page table in package 0 (root 0x1000) maps virtual page 0 to frame 0x40000; die 0 is to move it to frame 0x50000. -/
def moving : State :=
  { (sv []).modDie 0 (fun d => { d with migst := 1, migdst := 0x50000 }) with
    io := { ptroot := [(0, 0x1001)] }
    kns := wrLE (wrLE (wrLE (wrLE [] 0x1000 0x2001 8) 0x2000 0x3001 8) 0x3000 0x4001 8) 0x4000 0x4013F 8 }

theorem test_meets_Paging_migration : moving.kns.wf = true ∧ findLeaf moving 0 0x1000 0 4 = some (0, 0x4000, 0x4013F, false) ∧
    pteMalformed 3 (withFrame 0x4013F (moving.die 0).migdst) = false ∧ pteAddr (withFrame 0x4013F (moving.die 0).migdst) = 0x50000 ∧
    moving.frameBusy 0 0x40000 65536 = false ∧ ptePoison 0x4013F = false ∧ moving.frameReached 0 0x40000 65536 = true ∧
    moving.badFrame 0 0x50000 65536 = false := by decide +kernel
theorem test_meets_LinksAndHost : trainedRate 3 3 = 2 ∧ trainedRate 1 1 = 1 ∧ trainedRate 2 1 = 0 ∧ (({} : Port)).lstate = 0 ∧
    flowOpens (2 ^ 63 + 2 ^ 48 + 2 ^ 36) = true ∧ ((sm []).core 2052).freeSlot = some 0 := by decide
theorem test_meets_LinksAndHost_start :
    (match ({ submitted with kns := [], clusters := [(32, { tlb := [{ part := 0, big := false, page := 2, leaf := 0x2013F }] })] } : State).runs []
        (readSegs { core := 2052, port := cluOf 2052, tag := 0, thr := false, kind := 4, unit := 2052, uid := 0, id := 6 } 0
          (BitVec.ofNat 64 (0x5F * 2 ^ 56 + 0x20000))).run with
      | .ok (.ok segs, _) => segs.length == 8
      | _ => false) = true := by decide +kernel
theorem test_meets_LinksAndHost_host : (moving.dmaMapped 0 8 4 = true ∧ moving.dmaMapped 0x10000 8 4 = false) ∧
    (∃ t, moving.runs [] (Eng.wrBuf moving.ioReq (globRa 0) [7]) = .ok ((), t)) ∧
    (∃ bs t, moving.runs [] (Eng.rdBuf moving.ioReq (globRa 0) 4) = .ok (bs, t)) ∧
    (∃ x t, moving.runs [] (Eng.acc moving.ioReq (globRa 0) 8 (.amo .add 3)) = .ok (x, t)) ∧
    moving.packetBehind (.inboundDma (.write 0 [7])) = false ∧
    ({ moving with waits := [{ who := .uePacketReceive 0 .unsupported, key := none, paused := false, poison := false },
      { who := .inboundDma (.write 0 [7]), key := none, paused := false, poison := false }] } : State).packetBehind (.inboundDma (.write 0 [7])) = true :=
  ⟨by decide, ⟨_, rfl⟩, ⟨_, _, rfl⟩, ⟨_, _, rfl⟩, by decide, by decide⟩
-- R344, R376: a page of tag 0's table that is not resident is requested; the access to it is not dropped.
theorem test_dma_absent : ({ moving with kns := wrLE moving.kns 0x4000 0x4013D 8 } : State).dmaMapped 0 8 4 = true ∧
    ({ moving with kns := wrLE moving.kns 0x4000 0 8 } : State).dmaMapped 0 8 4 = false := by decide
-- The record's identity digest and the verdicts on the two signatures are constants the model leaves free (entry 3).
theorem test_meets_BringUp : State.reset.boot.dirOk = true ∧ State.reset.boot.halt = none ∧
    ({ State.reset.boot with halt := some 2 } : Boot).halt = some 2 ∧ State.reset.boot.astat ≠ 1 := by decide +kernel
theorem test_meets_BringUp_log : (bootLog (rdBytes resetRecord 0 1024) []).length < 64 := by decide +kernel

theorem leNat_lt (l : List Byte) : leNat l < 256 ^ l.length := by
  induction l with
  | nil => simp [leNat]
  | cons b l ih =>
    have := b.isLt
    simp only [leNat, List.length_cons, Nat.pow_succ]
    omega

theorem kmac256_lt (k x c : List Byte) : leNat (kmac256 k x c 4) < 2 ^ 32 := by
  have h := leNat_lt (kmac256 k x c 4)
  have hl : (kmac256 k x c 4).length ≤ 4 := by simp only [kmac256, sponge, List.length_take]; omega
  calc leNat (kmac256 k x c 4) < 256 ^ (kmac256 k x c 4).length := h
    _ ≤ 256 ^ 4 := Nat.pow_le_pow_right (by omega) hl
    _ = 2 ^ 32 := by decide

/-- A capability of partition 0 for logical core 0 with every right, which carries its own check value. -/
theorem test_meets_MatrixUnit_covers (s : State) : ∃ x, s.capCheck (BitVec.ofNat 64 (7 * 2 ^ 32 + x)) = x ∧
    (BitVec.ofNat 64 (7 * 2 ^ 32 + x)).toNat % 2 ^ 32 = x := by
  have h := kmac256_lt (s.capKey 0) (natLE 7 4) customCap
  have hn : ∀ x, x < 2 ^ 32 → (BitVec.ofNat 64 (7 * 2 ^ 32 + x)).toNat = 7 * 2 ^ 32 + x := fun x hx => by
    rw [BitVec.toNat_ofNat]; omega
  refine ⟨leNat (kmac256 (s.capKey 0) (natLE 7 4) customCap 4), ?_, ?_⟩
  · have h1 : ∀ x, x < 2 ^ 32 → bits (7 * 2 ^ 32 + x) 63 60 = 0 := fun x hx => by unfold bits; omega
    have h2 : ∀ x, x < 2 ^ 32 → bits (7 * 2 ^ 32 + x) 63 32 = 7 := fun x hx => by unfold bits; omega
    simp only [State.capCheck, hn _ h, h1 _ h, h2 _ h]
  · rw [hn _ h]; omega

/-! ## More cases that claims assume: the clauses on waits, orders and refusals -/

/-- A relaxed load to g5 that is on its way. -/
def smLoad5 (l : List Dword) : State := { sm l with net := [{ sentLoad with dest := .g 5 8 false }] }

theorem test_meets_LoadResults_room : (match (withQ 0 1 (List.replicate 16 1) (sm [])).roomFor (.q 0) with
    | .error (.wait _ .queue) => true
    | _ => false) = true := by decide
theorem test_meets_LoadResults_refused : (sm []).roomFor (.g 2) = .ok () ∧ (smSeg [] (seg 1 7 64)).segCheck 1 0 8 8 (denyWindow 8) = .error (.trap 0x04 0) ∧
    (smSeg [] (seg 1 11 64)).segCheck 1 0 8 4 (denyWindow 8) = .error (.trap 0x04 0) ∧ (sm []).drained 9 = true := ⟨rfl, rfl, rfl, by decide⟩
/-- Segment 1 lies in the register window of logical core 0. -/
def smWindow : State := { smSeg [0, 0x1000] (seg 6 15 0x2000) with lct := [(0, BitVec.ofNat 64 (2 ^ 63))] }
theorem test_meets_AtomicResults_window : (∃ p, smWindow.segCheck 1 0x1000 8 1 (fun _ => none) = .ok p) ∧ smWindow.cth.sg[1].space.toNat = 6 ∧
    (smSeg [] (seg 1 14 64)).segCheck 1 0 8 1 (fun sp => if sp = 6 then some 0x04 else none) = .error (.trap 0x04 0) := ⟨⟨_, rfl⟩, rfl, rfl⟩
theorem test_meets_StoreResults_ordered : (sm [0, 8, 5]).drained 9 = true ∧ ∃ ra t u, (sm [0, 8, 5]).segCheck 0 8 8 4 (denyWindow 8) = .ok (.core 0 8, ra) ∧
    (sm [0, 8, 5]).ordinary (.core 0 8) 8 (.wr 5 (fullMask 8)) 8 ra = .ok (t, 0) ∧ readO t (.g 2) = .ok (5, u) := ⟨by decide, _, _, _, rfl, rfl, rfl⟩
theorem test_meets_Fences_wait : (smLoad5 [0, 8]).returned 9 = false ∧ (smLoad5 [0, 8]).gPending 9 1 = false ∧
    (smLoad5 [0, 8]).roomFor (.g 2) = .ok () ∧ ∃ ra t, (smLoad5 [0, 8]).segCheck 0 8 8 8 (denyWindow 8) = .ok (.core 0 8, ra) ∧
    (smLoad5 [0, 8]).ordinary (.core 0 8) 8 .rd 8 ra = .ok (t, 0) := ⟨by decide, by decide, rfl, _, _, rfl, rfl⟩

/-- Core 0's slot 1 waits in an LDFE, slot 2 in a STFE, on the word at 8. -/
def smFe (l : List Dword) : State := (sm l).modCore 0 (fun k => { k with
  slots := k.slots ++ [(1, { th [] with uid := 10, wait := .poll (.fullEmpty (.core 0 8) true) }),
    (2, { th [] with uid := 11, wait := .poll (.fullEmpty (.core 0 8) false) })] })

theorem test_meets_FullEmptyWords_wait : ∃ ra, (smFe [0, 8, 5]).segCheck 0 8 8 8 denyFe = .ok (.core 0 8, ra) ∧
    (smFe [0, 8, 5]).segCheck 0 8 8 4 denyFe = .ok (.core 0 8, ra) ∧ (smFe [0, 8, 5]).roomFor (.g 2) = .ok () ∧
    (smFe [0, 8, 5]).feCheck (.core 0 8) .rd 8 ra = .ok () ∧ (smFe [0, 8, 5]).feCheck (.core 0 8) (.wr 5 (fullMask 8)) 8 ra = .ok () ∧
    (smFe [0, 8, 5]).feBit (.core 0 8) = false ∧ (smFe [0, 8, 5]).feTurn (.core 0 8) true = true ∧
    (smFe [0, 8, 5]).feTurn (.core 0 8) false = true ∧ (sm [0, 8, 5]).feTurn (.core 0 8) true = false :=
  ⟨_, rfl, rfl, rfl, rfl, rfl, by decide, by decide, by decide, by decide⟩
theorem test_meets_FullEmptyWords_acquire : (smLoad5 [0, 8]).returned 9 = false ∧ ∃ ra t,
    (smLoad5 [0, 8]).segCheck 0 8 8 8 denyFe = .ok (.core 0 8, ra) ∧ ((smLoad5 [0, 8]).setFe (.core 0 8) true).feBit (.core 0 8) = true ∧
    ((smLoad5 [0, 8]).setFe (.core 0 8) true).ordinary (.core 0 8) 8 .rd 8 ra = .ok (t, 0) := ⟨by decide, _, _, rfl, by decide, rfl⟩

/-- Partition 2's thread on core 0, whose segment 0 lies in the store of logical core 1, which carries tag 3. -/
def smEject (l : List Dword) : State :=
  { ((smT l (fun t => { t with sg := vset t.sg 0 { space := 2, rights := 15, limit := 64, base := 2 ^ 29 } })).modCore 0 (fun k =>
      { k with tag := 2 })).modCore 1 (fun k => { k with tag := 3 }) with
    lct := [(64 * 2 * 2048 + 1, BitVec.ofNat 64 (2 ^ 63 + 1))] }

theorem test_meets_FullEmptyWords_refused : ∃ ra u v, (smEject [0, 8, 5]).segCheck 0 8 8 8 denyFe = .ok (.core 1 8, ra) ∧
    (smEject [0, 8, 5]).segCheck 0 8 8 4 denyFe = .ok (.core 1 8, ra) ∧ (smEject [0, 8, 5]).ordinaryMay (.core 1 8) 8 = .ok () ∧
    (smEject [0, 8, 5]).route (smEject [0, 8, 5]).req (.core 1 8) 8 .rd = .fail u 4 ∧
    (smEject [0, 8, 5]).route (smEject [0, 8, 5]).req (.core 1 8) 8 (.wr 5 (fullMask 8)) = .fail v 4 :=
  ⟨_, _, _, rfl, rfl, rfl, rfl, rfl⟩

/-- The same state, whose move performs pieces one by one. -/
def pieces (s : State) : State := { s with cur := { s.cur with split := true } }

theorem test_meets_VectorMemory_pieces : (pieces (sm [0, 64])).cur.split = true ∧ (pieces (sm [0, 64])).unhindered (.core 0 64) 64 .rd ∧
    (pieces (sm [0, 64])).unhindered (.clu 0 64) 64 (.wr 7 (fullMask 64)) ∧ lanesOf (pieces (sm [])) (p1 .f64 0) 8 ≠ [] ∧
    ∃ ra, (pieces (sm [0, 64])).segCheck 0 64 64 8 (denyWindow 64) = .ok (.core 0 64, ra) :=
  ⟨rfl, by unfold State.unhindered; decide, by unfold State.unhindered; decide, by decide, _, rfl⟩
theorem test_meets_GatherScatter_none : (match elemsEff (smLane []) 8 .ord (fun _ => .rd) .none [(3, 0, .lost 6 5, 0)] (fun s _ => s) with
    | .error (.trapIn _ c v) => c == 4 && v == 0
    | _ => false) = true := by decide +kernel

/-- The thread waits in a PHWAIT on the word at 32 of its core, whose generation is 7, to see past generation e. -/
def smPhase (e : Nat) : State := (smT [] (fun t => { t with wait := .poll (.phase (.core 0 32) e 4 .pkg 4) })).modCore 0 (fun k =>
  { k with mem := [(32, 7)] })

theorem test_meets_PhaseInstructions_acquire : (smLoad5 [0, 8]).returned 9 = false ∧ (smLoad5 []).phasePlace (own 32) 8 = .ok (.core 0 32) ∧
    (∃ t, (smLoad5 []).ordinary (.core 0 32) 16 .rd 32 (own 32) = .ok (t, 0)) ∧ 0 % 2 ^ 31 ≠ 1 % 2 ^ 31 := ⟨by decide, rfl, ⟨_, rfl⟩, by decide⟩
theorem test_meets_PhaseInstructions_reads : ∃ q, (smPhase 6).thread? 0 0 = some q ∧ q.ctl = .run ∧
    q.wait = .poll (.phase (.core 0 32) 6 4 .pkg 4) ∧ q.deferred = [] ∧ pwGen (rdLE ((smPhase 6).core 0).mem 32 16) = 7 := ⟨_, rfl, rfl, rfl, rfl, by decide⟩

def doneLoad : Access := { sentLoad with
  cls := .ord, dest := .v 1 0, ord := some 1
  pieces := [{ loc := .core 0 0, n := 16, op := .rd, pos := 0, off := 0, ra := 0, stage := .done 7, ord := true }] }

theorem test_meets_RelaxedReplies_ordinary : (netOf doneLoad (sm [])).net[0]? = some doneLoad ∧ doneLoad.ordEnds = true ∧ doneLoad.reported = false ∧
    failureOf (doneLoad.pieces.filter (fun q => q.ord)) = none ∧ doneLoad.park = none ∧ (netOf doneLoad (sm [])).findUid 9 = some (0, 0) ∧
    (netOf doneLoad (sm [])).cth.ctl = .run := ⟨rfl, by decide, rfl, by decide, rfl, by decide, rfl⟩
/-- One whose piece has failed; one that goes on with a relaxed element; one that waits for a page. -/
theorem test_meets_RelaxedReplies_ends :
    (let a : Access := { doneLoad with pieces := doneLoad.pieces.map (fun (p : Piece) => { p with stage := .failed 0x0C }) }
     a.ordEnds = true ∧ failureOf (a.pieces.filter (fun q => q.ord)) = some (0x0C, 0)) ∧
    (let a : Access := { doneLoad with pieces := doneLoad.pieces ++ sentLoad.pieces }
     a.ordEnds = true ∧ a.pieces.any (fun q => q.ord == false) = true) ∧
    (let k := pageKey 0 0 0x10008
     ({ doneLoad with park := some k } : Access).park = some k ∧ ((sm []).missing 0 k).isNone = false ∧ ((paged (sm [])).missing 0 k).isNone = true) := by
  decide +kernel
theorem test_meets_RelaxedReplies_reported : (loadIn (.failed 4)).dest = .g 1 8 false ∧ (loadIn (.failed 4)).reported = false ∧
    (netOf { loadIn (.failed 4) with reported := true } (sm [])).gPending 9 1 = true := by decide
theorem test_meets_RelaxedTransport_lost : ({ loc := .lost 2 0x20000000, n := 8, op := .rd, pos := 0, off := 0, ra := 0 } : Piece).stage = .sent ∧
    bits 0x20000000 39 29 = 1 ∧ (loadIn .sent).elemTurn 0 = true ∧
    ((paged (netOf globLoad (sm []))).die 0).qosctl.getLsbD 0 = false ∧ (paged (netOf globLoad (sm []))).migHeld 0 0x10008 .rd = false := by decide
/-- An ordinary store of two pieces, the word of the second in error. -/
def badStore : Access := { loadIn .arrived with
  cls := .ord, dest := .none, ord := some 1
  pieces := [{ loc := .glob 0x10000, n := 8, op := .wr 7 0xFF, pos := 0, off := 0, ra := 0, stage := .arrived, phys := some (0, 0x20000), ord := true },
    { loc := .glob 0x10008, n := 8, op := .wr 7 0xFF, pos := 8, off := 0, ra := 0, stage := .arrived, phys := some (0, 0x20008), ord := true }] }
theorem test_meets_RelaxedTransport_refusing : ({ netOf badStore (sm []) with bad := [0x4001] } : State).refusing badStore = some 1 ∧
    badStore.refused = false ∧ badStore.pieces.all (fun p => p.ordStore) = true ∧ (netOf badStore (sm [])).refusing badStore = none ∧
    badStore.pieces.all (fun p => (netOf badStore (sm [])).inOrder 0 0 badStore p) = true := by decide +kernel
/-- A watchpoint of partition 1 on the load's address. -/
def watched : State :=
  { netOf { globLoad with iss := { globLoad.iss with tag := 1 } } (sm []) with io := { waddr := [(4, BitVec.ofNat 64 (5 * 2 ^ 60 + 0x10008))], wctl := [(4, 0x10D)] } }
theorem test_meets_RelaxedTransport_watched : (match watched.net with
    | [a] => a.pieces.all (fun p => (watched.pieceHit a p).isSome && !a.elems)
    | _ => false) = true := by decide +kernel
theorem test_meets_FlagTraps_several : (smT [] (fun t => { t with deferred := [⟨1, 4, 0, none, 0, 0⟩, ⟨0x20, 6, 0, none, 0, 1⟩] })).cth.deferred =
    [⟨1, 4, 0, none, 0, 0⟩, ⟨0x20, 6, 0, none, 0, 1⟩] := by decide

/-- aCopy as it is after its checks; one chunk of it moved, with both its phase words still to be updated. -/
def checkedCopy : Copy := { aCopy with checked := true }
def twoWords : Copy := { checkedCopy with pws := [own 32, own 64], uncounted := [(56, [own 32, own 64])] }

theorem test_meets_CopyWork_pieces : (pieces (sm [])).cur.split = true ∧ checkedCopy.moving = [] ∧ checkedCopy.heads 0 0 = false ∧
    checkedCopy.chunks[0]? = some (0, 0, 56) ∧ (checkedCopy.chunkAt 0 0 56).wr = [(0, 8, 0), (8, 16, 8), (24, 16, 24), (40, 16, 40)] := by decide
/-- A copy within one core of two rows that share banks, the first not begun; one whose first piece may move. -/
theorem test_meets_CopyWork_free :
    (let c : Copy := { checkedCopy with cnt := 56, rows := 2, dstr := 64, sstr := 64 }
     (sm []).chunkFree c 0 (0, 0, 56) = true ∧ (sm []).chunkFree c 1 (1, 0, 56) = false ∧ c.chunks[1]? = some (1, 0, 56) ∧ 0 < (c.whole 1 0 56).length) ∧
    (let c : Copy := { checkedCopy with moving := [checkedCopy.chunkAt 0 0 56] }
     0 < c.pieceCount ∧ (pieces (sm [])).pieceFree c 0 = true ∧
     (match (pieces (sm [])).runs [] (c.movePiece 0) with | .ok _ => true | .error _ => false) = true) ∧
    (let c : Copy := { checkedCopy with moving := [checkedCopy.chunkAt 0 0 56, checkedCopy.chunkAt 0 56 244] }
     (List.range c.pieceCount).any (fun j => !(pieces (sm [])).pieceFree c j) = true) := by decide +kernel
theorem test_meets_CopyWork_first : twoWords.uncounted[0]? = some (56, [own 32, own 64]) ∧
    (∃ t, (pieces (sm [])).runs [] (Eng.phase twoWords.req (own 32) 56 0) = .ok ((), t)) ∧
    ∃ t, [own 32, own 64].foldlM (fun u p => (State.runs u [] (Eng.phase twoWords.req p 56 0)).map (fun x => x.2)) (sm []) = .ok t :=
  ⟨rfl, ⟨_, rfl⟩, _, rfl⟩
theorem test_meets_MatrixKicks_names : ((smMx (fun m => { m with kicks := [zeroOp] })).core 0).mx.names 1 = true ∧
    ((smMx (fun m => { m with kicks := [zeroOp] })).core 0).mx.names 0 = false := by decide

/-- A commanded operation that has no entry yet. -/
def heldOp : MxOp := { zeroOp with remote := true, entry := false }

theorem test_meets_MatrixUnit_entry : mxIsCompute heldOp.ins = true ∧ ({ kicks := [heldOp] } : Mx).held < 8 ∧
    8 ≤ ({ kicks := [heldOp], ops := List.replicate 8 zeroOp } : Mx).held := by decide
theorem test_meets_MatrixUnit_order : ({ sm [] with rcmds := [goCmd 0, goCmd 1] } : State).rcmds[1]? = some (goCmd 1) ∧
    goCmd 0 ∈ ({ sm [] with rcmds := [goCmd 0, goCmd 1] } : State).rcmds.take 1 ∧ (goCmd 0).op.iss.uid = (goCmd 1).op.iss.uid := by decide
theorem test_meets_MatrixUnit_sender : (smT [] (fun t => { t with wait := .mail .kick })).thread? 0 0 =
    some (smT [] (fun t => { t with wait := .mail .kick })).cth ∧ (th []).uid = (goCmd 0).op.iss.uid := ⟨rfl, by decide⟩
/-- Segment 0 lies in the cluster store of logical core 1, which is core 64. -/
def farCode : State := { smT [] (fun t => { t with sg := vset t.sg 0 { space := 4, rights := 15, limit := 64, base := 2 ^ 29 } }) with
  lct := [(1, BitVec.ofNat 64 (2 ^ 63 + 64))] }
theorem test_meets_IllegalGroups_reach : farCode.cth.sg[0].space.toNat = 4 ∧ farCode.cth.sg[0].rights.getLsbD 1 = true ∧
    farCode.cth.pc.toNat + 2 ≤ farCode.cth.sg[0].limit.toNat ∧ farCode.place 0 0 4 (fieldAdd 4 (2 ^ 29) 0) = some (.clu 1 0) ∧
    inReach 0 (some (.clu 1 0)) = false := by decide

theorem test_meets_StepRunsDecoded_pick : (ready.splits false).pick 0 = some 0 ∧ ready.interruptDue 0 0 (ready.thread 0 0) = false ∧
    ready.fetchReach 0 (ready.thread 0 0).sg[0] 0 = true := by decide +kernel
/-- YIELD of a thread whose wake bit is 0 stands at the first stage's address. -/
def stuck : State := State.reset.withFetchWord 32 0xFB002800
theorem test_meets_StepRunsDecoded_idle : stuck.idleTurn 2048 0 (stuck.turn 2048 0) = true ∧ stuck.pick 2048 = none := by decide +kernel
/-- Two slots are ready, and slot 0 has issued last. -/
def pair : State := ready.modCore 0 (fun k => { k with last := 0, slots := k.slots ++ [(1, { th [] with uid := 10 })] })
theorem test_meets_StepRunsDecoded_turn : pair.pick 0 = some 1 ∧ pair.idleTurn 0 0 (pair.turn 0 0) = false ∧ pair.rested 0 0 = true := by decide +kernel

/-- The thread's acquire waits, with g2's value read. -/
def acquiring : State := smT [] (fun t => { t with wait := .acquire { res := some (.g 2, 5), scope := .clu, next := 4 } })
theorem test_meets_IssueOrder_acquire : acquiring.thread? 0 0 = some acquiring.cth ∧ acquiring.returned 9 = true ∧ acquiring.cth.ctl = .run ∧
    (acquiring.acquired 0 0).isSome = true ∧ (sm []).acquired 0 0 = none ∧ (sm []).stopDue 0 = false :=
  ⟨rfl, by decide, rfl, by decide +kernel, by decide +kernel, by decide⟩
theorem test_meets_IssueOrder_link : (match writeO acquiring (.link .n) 5 with
    | .error (.trap _ _) => true
    | _ => false) = true ∧
    (match writeO ((withL [] (sm [])).modCore 56 (fun k => { k with claims := [] })) (.link .n) 5 with
      | .error (.wait _ _) => true
      | _ => false) = true := by decide +kernel
theorem test_meets_EngineService_refusal : cluIdx 0 < 32 ∧ ((smGen (eop (.spobs 1 2) [0, 255])).clu 0).accasn = [] ∧
    (mget (0 : Fin 16) 3 ((smGen (eop (.spobs 1 2) [3, 255])).clu 0).accasn).val = 0 ∧ ¬ (256 : Dword).toNat < 256 := by decide
theorem test_meets_ThreadInstructions_yield : ({ (smLoad5 []).modCth (fun t => { t with wake := true }) with counter := 0 } : State).cth.wake = true ∧
    ({ (smLoad5 []).modCth (fun t => { t with wake := true }) with counter := 0 } : State).returned 9 = false := by decide
theorem test_meets_ThreadInstructions_signal : (sm []).posts.any (fun p => p.iss.uid == 9) = false ∧
    (∃ gk g, (smNodes .kernel .waiting).graphOf (5 / 4096) = some (gk, g) ∧ g.nodes.length = 6) ∧
    (smNodes .kernel .waiting).graphBusy 0 (.engineMailboxPost 9) = false ∧
    (∃ b u, (smNodes .kernel .waiting).flow (.engineMailboxPost 9) (Eng.token 0 5) (some 0) false = .done u b) ∧
    (smT [] (fun t => { t with posted := some { res := [(1, 2)], err := none } })).cth.posted = some { res := [(1, 2)], err := none } :=
  ⟨by decide, ⟨_, _, rfl, rfl⟩, by decide, ⟨_, _, rfl⟩, by decide⟩
theorem test_meets_ThreadInstructions_gateway : isGateway (on 2052 (th [])).cur.core = true ∧ (on 2052 (th [])).cth.posted = none ∧
    (sm []).io.intq.length < 1024 ∧ (sm []).cth.sysc = .none := by decide
theorem test_meets_ThreadEvents_wake : ({ sm [] with wakes := [⟨some 5, 0, 0⟩] } : State).wakes = [⟨some 5, 0, 0⟩] ∧
    (∀ e ∈ (sm []).clusters, ∀ p ∈ e.2.places, ¬ (p.2.ctx.node.isSome = true ∧ p.2.ctx.node = some 5 ∧ p.2.ctx.attempt = 0 ∧ p.2.ctx.tid = 0)) ∧
    (th []).node = some 5 ∧ (th []).tid = 0 := ⟨rfl, by decide, rfl, rfl⟩

/-- A packet whose place in the granary is reserved, for a core whose arrival queue is full. -/
def crowded : State := { ((grans (sm [])).modClu 0 (fun k => { k with reserved := [(0, 3, 10)] })).modCore 1 (fun k =>
  { k with arrq := List.replicate 16 aPacket.ctx }) with pkts := [aPacket] }
theorem test_meets_TravelAndSaving_place : crowded.pkts = [aPacket] ∧ crowded.holds 1 aPacket.ctx = true ∧ 16 ≤ (crowded.core 1).arrq.length ∧
    crowded.placeOf 1 10 = some (0, 3) := ⟨rfl, by decide +kernel, by decide +kernel, by decide +kernel⟩
theorem test_meets_TravelAndSaving_holder : (travels (sm [])).holder 1 = true ∧ (travels (sm [])).holder 2 = false := by decide
/-- A granary whose cache holds 256 images that are not sealed. -/
def unsealed : State := (grans (sm [])).modClu 0 (fun k => { k with gran := [(0, 9)], places := tab 256 (fun i => (i, aSaved)) })
theorem test_meets_TravelAndSaving_full : (granPages unsealed).mayStore 0 256 { aSaved with kind := 3 } = false ∧
    (granPages (grans (sm []))).mayStore 0 0 aSaved = true := by decide +kernel
/-- Core 1 holds no segment of node 5 any more, whose second one stays with core 2; a context of it waits in core 1's arrival queue behind
one of no node, or in the granary. -/
def lostHolder : State := ((grans (sm [])).modClu 0 (fun k => { k with
  maps := [{ node := 5, attempt := 0, lv := none, entries := [⟨[0, 2], 64, 0⟩, ⟨[2], 64, 64⟩], cores := [0, 1, 2] }] })).modCore 1 (fun k =>
    { k with arrq := [aPacket.ctx, { th [] with uid := 11 }] })
def lostPlace : State := lostHolder.modClu 0 (fun k => { k with places := [(0, { aSaved with ctx := { th [] with uid := 12 } })] })
theorem test_meets_TravelAndSaving_redirect : (∃ t ∈ (lostHolder.core 1).arrq, lostHolder.holds 1 t = false ∧ (lostHolder.rechoose 1 t).isSome = true ∧
      (lostHolder.placeOf 1 t.uid).isSome = true) ∧
    (∃ e ∈ lostPlace.taggedFor 1, lostPlace.holds 1 e.2.ctx = false ∧ (lostPlace.rechoose 1 e.2.ctx).isSome = true) ∧
    (lostHolder.redirected 1).isSome = true ∧ (lostPlace.redirectedPlace 1).isSome = true ∧ (sm []).redirected 1 = none ∧
    (withPlace aSaved).redirectedPlace 1 = none := by decide +kernel
/-- A descriptor that the granary has still to write. -/
def descLeft : State := (granPages (grans (sm []))).modClu 0 (fun k => { k with descs := [{ part := 0, place := 0, bytes := List.replicate 64 1 }] })
theorem test_meets_TravelAndSaving_descriptor : (descLeft.clu 0).descs.length = 1 ∧
    (match descLeft.runs [] (Eng.wrBuf (granReq 0) (globRa (descLeft.descVa 0 0 0)) (List.replicate 64 1)) with
      | .ok _ => true
      | .error _ => false) = true := by decide +kernel
theorem test_meets_TravelAndSaving_image : (match (granPages (grans (sm []))).runs [] (Eng.wrBuf (granReq 0) (globRa 0) (imageBytes aSaved.ctx)) with
    | .ok _ => true
    | .error _ => false) = true := by decide +kernel
theorem test_meets_PrivilegedInstructions_come : ({ sv [] with stops := [⟨1, 5, false⟩], counter := 5 } : State).stopCome 1 = true ∧
    ({ sv [] with stops := [⟨1, 5, false⟩], counter := 4 } : State).stopCome 1 = false := by decide
theorem test_meets_Graphs_free : (smNodes .signal .running).flowTrail (.nodeComplete 0 5) = some [] ∧
    (smNodes .signal .running).graphBusy 0 (.nodeComplete 0 5) = false ∧ (smNodes .signal .running).cur.split = false ∧
    ({ sm [] with waits := [{ who := .walkStep 0, key := none, paused := false, poison := false, trail := [⟨0, 8, .rd, some 7⟩] }] } : State).flowTrail
      (.walkStep 0) = some [⟨0, 8, .rd, some 7⟩] ∧
    ({ sm [] with waits := [{ who := .walkStep 0, key := some ⟨0, 0, 1⟩, paused := true, poison := false }] } : State).flowTrail (.walkStep 0) = none := by
  decide
/-- A walk step of graph 0 has begun and waits: its other events wait behind it, those of graph 1 do not. -/
def graphBegun : State :=
  { smNodes .signal .running with waits := [{ who := .walkStep 0, key := some ⟨0, 0, 1⟩, paused := true, poison := false, graph := some 0 }] }
theorem test_meets_Graphs_busy : (∀ who ∈ [Instr.nodeDispatch 0 5, .nodeComplete 0 5, .nodeRetry 0 5, .cancellingFinish 0 5, .graphComplete 0,
      .engineMailboxPost 9, .nodeFault 5, .groupPlace (5 * 1024)], graphBegun.graphBusy 0 who = true) ∧
    graphBegun.graphBusy 0 (.walkStep 0) = false ∧ graphBegun.graphBusy 1 (.nodeComplete 1 5) = false := by decide
/-- A walk of graph 0 at node 4, whose six nodes are of one state. -/
def walking (st : NState) (w : Walk) : State := { sm [] with graphs := [(0, { aGraph (List.replicate 6 (aNode .signal st)) with walks := [w] })] }
theorem test_meets_Graphs_walks : [NState.waiting, .running, .done].all (fun st => match (walking st { queue := [4], seen := [] }).runs []
      (Eng.walk 0 { aGraph (List.replicate 6 (aNode .signal st)) with walks := [{ queue := [4], seen := [] }] }) with
    | .ok _ => true
    | .error _ => false) = true ∧ (aNode .signal .running).child ≠ some 0 ∧
    ({ queue := [4], seen := [4] } : Walk).seen.contains 4 = true := by decide +kernel
theorem test_meets_Graphs_fault_taken : (smNodes .kernel .running).nodeOf 5 = some (0, 5, aNode .kernel .running) ∧
    (aNode .kernel .running).attempt = 0 ∧ (aNode .kernel .running).faulted = false ∧ (aNode .kernel .running).state = .running ∧
    (aNode .kernel .running).budget ≠ 0 ∧ (aNode .kernel .running).retrySafe = false := by decide +kernel
theorem test_meets_Graphs_status : (aGraph [aNode .signal .done]).status = 1 ∧ (aGraph [aNode .signal .faulted, aNode .signal .done]).status = 2 ∧
    (aGraph [aNode .signal .cancelled]).status = 3 := by decide

/-- The migration of `moving` with its page held, n bytes copied. -/
def copying (n : Nat) : State :=
  moving.modDie 0 (fun d => { d with mig := some { part := 0, va := 0, pkg := 0, pte := 0x4000, old := 0x4013F, new := 0x5013F, size := 65536, next := n } })

theorem test_meets_Paging_hold : (moving.die 0).migst = 1 ∧ (moving.die 0).mig = none ∧ (mget 0 0 moving.io.ptroot).getLsbD 0 = true ∧
    (ptePkg 0x5013F, pteAddr 0x5013F) ≠ (ptePkg 0x4013F, pteAddr 0x4013F) ∧
    findLeaf { moving with kns := wrLE moving.kns 0x4000 0x401BF 8 } 0 0x1000 0 4 = some (0, 0x4000, 0x401BF, false) ∧
    ptePoison 0x401BF = true := by decide +kernel
theorem test_meets_Paging_copy : (copying 0).frameBusy 0 0x40000 65536 = false ∧ (copying 0).kns.wf = true ∧
    (∀ n ∈ [0, 64, 65472], (copying n).frameReached 0 (0x40000 + n) 64 = true ∧ (copying n).badFrame 0 (0x40000 + n) 64 = false ∧
      (copying n).frameReached 0 (0x50000 + n) 64 = true ∧ (copying n).badFrame 0 (0x50000 + n) 64 = false) ∧
    (pieces (copying 64)).cur.split = true ∧ (copying 64).cur.split = false ∧ moving.heldBefore 0 = false ∧
    ((copying 0).modDie 1 (fun d => { d with migst := 1 })).heldBefore 1 = true := by decide +kernel
theorem test_meets_Paging_switch : (copying 65536).frameBusy 0 0x40000 65536 = false ∧
    (netOf { sentLoad with pieces := [{ loc := .glob 0, n := 8, op := .rd, pos := 0, off := 0, ra := 0, stage := .arrived, phys := some (0, 0x40008) }] }
      (copying 65536)).frameBusy 0 0x40000 65536 = true ∧ (copying 65536).linked 0 = true ∧ (copying 65536).badAt 0 0x4000 8 = false ∧
    ({ copying 65536 with bad := [0x800] } : State).badAt 0 0x4000 8 = true := by decide +kernel
/-- What ends a migration: the page poisoned meanwhile, a word of the source in error, one of the destination. -/
theorem test_meets_Paging_abandon : (∀ m ∈ ((copying 64).die 0).mig, (copying 64).migPoisoned m = false ∧
      ({ copying 64 with kns := wrLE (copying 64).kns 0x4000 0x401BF 8 } : State).migPoisoned m = true) ∧
    ({ copying 64 with bad := [0x8008] } : State).badFrame 0 0x40040 64 = true ∧
    ({ copying 64 with bad := [0xA008] } : State).badFrame 0 0x50040 64 = true ∧ ((copying 64).die 0).mig.isSome = true := by decide +kernel
theorem test_meets_LinksAndHost_down : ((sm []).modPort 0 (fun p => { p with lstate := 2 })).port 0 = { lstate := 2 } ∧
    (∀ e ∈ (netOf sentLoad (sm [])).net, ∀ y ∈ e.pieces, (netOf sentLoad (sm [])).crosses 0 y = false) ∧ (({} : Port)).lstate < 2 ∧
    (sm []).copyAt 0 aCopy = none := by decide
theorem test_meets_LinksAndHost_ue : mget 0 2 ({ sm [] with boot := { (sm []).boot with ue := [(2, 1)] } } : State).boot.ue ≠ 0 ∧
    (sm []).waits.countP (fun w => match w.who with | .uePacketReceive p _ => p == 2 | _ => false) < 65536 ∧
    (sm []).ueBehind 2 4095 1023 (.uePacketReceive 2 (.reliable true 4095 1023 (.read 0 4))) = false := by decide

/-! ## Single steps: results worked out in the spec or by hand from its rules -/

-- the table of R156
theorem test_div : gAfter (.div (.g 1) (.op (.g 2))) [0, -7, 2] 1 = -3 ∧ gAfter (.div (.g 1) (.imm 0)) [0, 9] 1 = -1 := by decide
theorem test_rem : gAfter (.rem (.g 1) (.op (.g 2))) [0, -7, 2] 1 = -1 ∧ gAfter (.rem (.g 1) (.imm (-1))) [0, 0x8000000000000000] 1 = 0 := by decide
theorem test_divn : gAfter (.divn (.g 1) (.imm (-2))) [0, 7] 1 = 0 ∧ gAfter (.remn (.g 1) (.imm (-2))) [0, 7] 1 = 7 := by decide
-- R155
theorem test_sub_wraps : gAfter (.sub (.g 1) (.op (.g 1))) [0, 5] 1 = 0 ∧ gAfter (.sub (.g 1) (.imm 1)) [] 1 = -1 := by decide
theorem test_mulh : gAfter (.mulh (.g 1) (.imm (-1))) [0, 2] 1 = -1 ∧ gAfter (.mulhn (.g 1) (.imm (-1))) [0, 2] 1 = 1 := by decide
theorem test_shift_count : gAfter (.shl (.g 1) (.op (.g 2))) [0, 3, 65] 1 = 6 ∧ gAfter (.sar (.g 1) (.op (.g 2))) [0, -8, 66] 1 = -2 := by decide
theorem test_rol : gAfter (.rol (.g 1) (.imm 4)) [0, 0xF000000000000001] 1 = 0x1F := by decide
theorem test_sltn : gAfter (.sltn (.g 4) (.imm (-1))) [] 4 = 1 ∧ gAfter (.sltn (.g 4) (.imm (-1))) [0, 0, 0, 0, -1] 4 = 0 := by decide
theorem test_clz : gAfter (.clz (.g 1) (.g 2)) [] 1 = 64 ∧ gAfter (.ctz (.g 1) (.g 2)) [0, 0, 8] 1 = 3 := by decide
-- R158, R159
theorem test_ext : gAfter (.ext (.g 1) (.g 2) .w8 true) [0, 0, 0x180] 1 = -128 ∧ gAfter (.ext (.g 1) (.g 2) .w16 false) [0, 0, -1] 1 = 0xFFFF := by decide
theorem test_csel : gAfter (.csel 1 (.g 2) (.g 3)) [0, 5, 6, 0] 1 = 5 ∧ gAfter (.csel 1 (.g 2) (.g 3)) [0, 5, 6, 1] 1 = 6 := by decide
-- R160: LOOP entered with 0 goes on; JALR of its own link register goes to the old value (R161)
theorem test_loop : (after (.loop 1 4) (sm [])).cth.g[1] = -1 ∧ (after (.loop 1 4) (sm [])).cth.pc = 8 ∧ (after (.loop 1 4) (sm [0, 1])).cth.pc = 2 := by decide
theorem test_jalr : (after (.jalr 1 1) (sm [0, 0x40])).cth.pc = 0x40 ∧ (after (.jalr 1 1) (sm [0, 0x40])).cth.g[1] = 2 ∧
    (after (.jalr 1 1) (sm [0, 0x41])).cth.xcause = 5 ∧ (after (.jalr 1 1) (sm [0, 0x41])).cth.g[1] = 0x41 := by decide
-- R45, R46
theorem test_queue : (after (.add (.q 0) (.op (.q 0))) (withQ 0 0 [3, 4, 9] (sm []))).core 0 |>.queue 0 |>.ent |> (· = [9, 7]) := by decide
theorem test_queue_unbound : (after (.mov (.g 1) (.q 2)) (sm [])).cth.xcause = 0x10 ∧ (after (.mov (.g 1) (.q 2)) (sm [])).cth.xval = 26 := by decide
-- R7: little-endian; R206: the sign extension of a byte
theorem test_st_ld : rdB ((after (.st (m1 .ord) (.g 2) .w16) (sm [0, 8, 0x1234])).core 0).mem 8 = 0x34 ∧
    rdB ((after (.st (m1 .ord) (.g 2) .w16) (sm [0, 8, 0x1234])).core 0).mem 9 = 0x12 ∧
    (after (.ldsx (.g 3) (m1 .ord) .w8) ((sm [0, 8]).modCore 0 (fun k => { k with mem := [(8, 0x80)] }))).cth.g[3] = -128 := by decide
-- R38: the limit before the reach, the alignment last; an access past the end of core store
theorem test_ld_bounds : (after (.ld (.g 3) (m1 .ord) .w64) (sm [0, 0x80000])).cth.xcause = 3 ∧
    (after (.ld (.g 3) (m1 .ord) .w64) (sm [0, 4])).cth.xcause = 5 ∧ (after (.ld (.g 3) (m1 .ord) .w64) (sm [0, 4])).cth.xval = 4 := by decide
theorem test_amo : (after (.amo 3 2 (m1 .ord) .w32 .max) ((sm [0, 8, 5]).modCore 0 (fun k => { k with mem := [(8, 0xFF), (9, 0xFF), (10, 0xFF), (11, 0xFF)] }))).core 0
    |>.mem |> (· = [(8, 5)]) := by decide
theorem test_cas : (after (.cas 3 2 (m1 .ord) .w64) (sm [0, 8, 5, 0])).core 0 |>.mem |> (· = [(8, 5)]) := by decide
theorem test_stfe : (after (.stfe (m1 .ord) (.g 2)) (sm [0, 8, 5])).feBit (.core 0 8) = true := by decide
-- R124: 300.0 to e4m3 is 0x79 with NX, to e5m2 0x5D; 70,000 to e5m2 is 0x7C or, with sat8, 0x7B
theorem test_fcvt : gAfter (.fcvt (sc .f32) (.g 1) (.g 2) .e4m3 (some .rne)) [0, 0, 0x43960000] 1 = 0x79 ∧
    gAfter (.fcvt (sc .f32) (.g 1) (.g 2) .e5m2 (some .rne)) [0, 0, 0x43960000] 1 = 0x5D := by decide +kernel
theorem test_fcvt_overflow : gAfter (.fcvt (sc .f32) (.g 1) (.g 2) .e5m2 (some .rne)) [0, 0, 0x4788B800] 1 = 0x7C ∧
    gAfter (.fcvt (sc .f32) (.g 1) (.g 2) .e5m2 (some .rtz)) [0, 0, 0x4788B800] 1 = 0x7B := by decide +kernel
theorem test_fadd : gAfter (.fadd (sc .f32) (.g 1) (.g 2) none) [0, 0x3F800000, 0x40000000] 1 = 0x40400000 := by decide +kernel
theorem test_fdiv_by_zero : (after (.fdiv (sc .f32) (.g 1) (.g 2) none) (sm [0, 0xBF800000, 0])).cth.g[1] = 0xFF800000 ∧
    (after (.fdiv (sc .f32) (.g 1) (.g 2) none) (sm [0, 0xBF800000, 0])).cth.fflg = fDZ := by decide +kernel
-- R184: 0x7F in e4m3 negated is 0xFF
theorem test_fneg : gAfter (.fneg (sc .e4m3) (.g 1) (.g 2)) [0, 0, 0x7F] 1 = 0xFF := by decide
theorem test_fclass : gAfter (.fclass (sc .f32) (.g 1) (.g 2)) [0, 0, 0x7F800001] 1 = 8 ∧ gAfter (.fclass (sc .e4m3) (.g 1) (.g 2)) [0, 0, 0x7F] 1 = 9 := by decide
-- R12, R168: an enabled flag traps with no result, XVAL the lane
theorem test_flag_trap : (after (.fadd (p1 .f32 0) (.v 1) (.v 2) none) smFlag).cth.xcause = 6 ∧
    (after (.fadd (p1 .f32 0) (.v 1) (.v 2) none) smFlag).cth.xval = 1 ∧
    lane 32 (after (.fadd (p1 .f32 0) (.v 1) (.v 2) none) smFlag).cth.v[1] 0 = 0x3F800000 := by decide +kernel
theorem test_vadd_mask : lane 32 (after (.vadd (p1 .i32 1) 1 (.imm 5)) (smLane [])).cth.v[1] 3 = 5 ∧
    lane 32 (after (.vadd (p1 .i32 1) 1 (.imm 5)) (smLane [])).cth.v[1] 2 = 0 := by decide +kernel
theorem test_kop_pop : (after (.kop (.b 3) (.k 1) .pop) (smLane [])).cth.g[(gOf 3).val] = 1 := by decide
theorem test_fset_illegal : (after (.fset 1 true) (sm [0, 5])).cth.xcause = 1 := by decide
-- R39: LEA of a base; R171: SETTH; R170: TRAPRET outside a handler; R149: a privileged instruction in user mode
theorem test_lea : gAfter (.lea 4 (m1 .ord)) [0, 8] 4 = 0x1F00000000000008 := by decide
theorem test_setth : (after (.setth 1) (sm [0, 0x101])).cth.xcause = 5 ∧ (after (.setth 1) (sm [0, 0x40000])).cth.xcause = 3 ∧
    (after (.setth 1) (sm [0, 0x100])).cth.handler = 0x100 := by decide
theorem test_trapret : (after (.trapret false) (sm [])).cth.xcause = 1 ∧ (after (.trapret false) (sm [])).cth.xval = 0xABCD000A := by decide
theorem test_privilege : (after (.prd 1 2) (sm [])).cth.xcause = 2 ∧ (after (.prd 1 2) (sm [])).cth.xval = 0xABCD := by decide
theorem test_brk : (after (.brk 5) (sm [])).cth.xcause = 8 ∧ (after (.brk 5) (sm [])).cth.xval = 5 := by decide
theorem test_yield : (after .yield (smT [] (fun t => { t with wake := true }))).cth.wake = false ∧ (after .yield (sm [])).cth.wait = .poll .yield := by decide
theorem test_gets : gAfter (.gets (.g 1) 25) [] 1 = 0 ∧ (after (.gets (.g 1) 26) (on 2075 (th []))).cth.g[1] = 4 ∧
    (after (.gets (.g 1) 27) (on 2075 (th []))).cth.g[1] = 23 := by decide
theorem test_sysc : (after (.sysc 33) (sm [])).cth.sysc = .asked ∧ (after (.sysc 33) (sm [])).io.intq.length = 1 := by decide
theorem test_illegal : (after (.illegalInstruction 0 0 6) (sm [])).cth.xcause = 1 ∧ (after (.illegalInstruction 0 0 6) (sm [])).cth.xval = 6 := by decide
-- R109: the update that meets both targets
theorem test_phase_update : phaseUpdate (pwWord 4 false 0 64 0 1) 64 1 = pwWord 5 false 0 64 0 1 := by decide
-- R271: Philox-4x32-10 of the zero key and counter, the published first word of its known answer
theorem test_philox : (philox 0 0 0 0).1 = 0x6627E8D5 := by decide +kernel

end Sys2Proof.Tests
end

section
/-! PROOFS. The phase word and its update, what a bank and an ordinary access leave alone, PHINIT and PHARR (R90, R93, R109, R222). -/

namespace Sys2Proof.Machine

/-! ## The fields of a phase word (R108) -/

theorem pwTbytes_lt (w : Nat) : pwTbytes w < 2 ^ 32 := Nat.mod_lt _ (by decide)
theorem pwTarr_lt (w : Nat) : pwTarr w < 2 ^ 16 := Nat.mod_lt _ (by decide)
theorem pwGen_lt (w : Nat) : pwGen w < 2 ^ 31 := Nat.mod_lt _ (by decide)

section Fields
variable (gen : Nat) (ov : Bool) (bytes tbytes arr tarr : Nat)

theorem b2n_lt_two : b2n ov < 2 := by cases ov <;> decide

theorem pwWord_lt : pwWord gen ov bytes tbytes arr tarr < 2 ^ 128 := by
  have := b2n_lt_two ov
  unfold pwWord
  omega

theorem pwGen_pwWord : pwGen (pwWord gen ov bytes tbytes arr tarr) = gen % 2 ^ 31 := by
  have := b2n_lt_two ov
  unfold pwGen bits pwWord
  omega

theorem pwOver_pwWord : pwOver (pwWord gen ov bytes tbytes arr tarr) = ov := by
  have hb := b2n_lt_two ov
  have h : pwWord gen ov bytes tbytes arr tarr / 2 ^ 31 % 2 = b2n ov := by
    unfold pwWord
    omega
  rw [pwOver, bitAt, h]
  cases ov <;> rfl

theorem pwBytes_pwWord : pwBytes (pwWord gen ov bytes tbytes arr tarr) = bytes % 2 ^ 32 := by
  have := b2n_lt_two ov
  unfold pwBytes bits pwWord
  omega

theorem pwTbytes_pwWord : pwTbytes (pwWord gen ov bytes tbytes arr tarr) = tbytes % 2 ^ 32 := by
  have := b2n_lt_two ov
  unfold pwTbytes bits pwWord
  omega

theorem pwArr_pwWord : pwArr (pwWord gen ov bytes tbytes arr tarr) = arr % 2 ^ 16 := by
  have := b2n_lt_two ov
  unfold pwArr bits pwWord
  omega

theorem pwTarr_pwWord : pwTarr (pwWord gen ov bytes tbytes arr tarr) = tarr % 2 ^ 16 := by
  have := b2n_lt_two ov
  unfold pwTarr bits pwWord
  omega

end Fields

/-- The word PHINIT stores has the two targets and nothing else (R109). -/
theorem pwWord_targets (x : Nat) :
    pwWord 0 false 0 (bits x 31 0) 0 (bits x 47 32) = x % 2 ^ 32 * 2 ^ 64 + x / 2 ^ 32 % 2 ^ 16 * 2 ^ 112 := by
  simp only [pwWord, bits, b2n, Bool.false_eq_true, if_false]
  omega

/-! ## The update (R109) -/

/-- The byte count after an update, saturated. -/
def phaseBytes (w db : Nat) : Nat := min (pwBytes w + db) 0xFFFFFFFF

/-- The arrival count after an update, saturated. -/
def phaseArr (w dn : Nat) : Nat := min (pwArr w + dn) 0xFFFF

/-- `over` after an update: it was set, a count saturates, or a count passes its target. -/
def phaseOver (w db dn : Nat) : Bool :=
  pwOver w || decide (0xFFFFFFFF < pwBytes w + db) || decide (0xFFFF < pwArr w + dn) || decide (pwTbytes w < phaseBytes w db) ||
    decide (pwTarr w < phaseArr w dn)

/-- Both counts meet their targets. -/
def PhaseMeets (w db dn : Nat) : Prop := pwTbytes w ≤ phaseBytes w db ∧ pwTarr w ≤ phaseArr w dn

theorem phaseBytes_lt (w db : Nat) : phaseBytes w db < 2 ^ 32 := by unfold phaseBytes; omega
theorem phaseArr_lt (w dn : Nat) : phaseArr w dn < 2 ^ 16 := by unfold phaseArr; omega

theorem phaseUpdate_of_meets {w db dn : Nat} (h : PhaseMeets w db dn) :
    phaseUpdate w db dn = pwWord ((pwGen w + 1) % 2 ^ 31) (phaseOver w db dn) 0 (pwTbytes w) 0 (pwTarr w) := by
  simp only [phaseUpdate, phaseOver, Bool.or_assoc]
  exact if_pos h

theorem phaseUpdate_of_not_meets {w db dn : Nat} (h : ¬ PhaseMeets w db dn) :
    phaseUpdate w db dn =
      pwWord (pwGen w) (phaseOver w db dn) (phaseBytes w db) (pwTbytes w) (phaseArr w dn) (pwTarr w) := by
  simp only [phaseUpdate, phaseOver, Bool.or_assoc]
  exact if_neg h

/-- Whether or not it meets the targets, an update is a phase word with the same targets and the new `over`. -/
theorem phaseUpdate_word (w db dn : Nat) :
    ∃ gen bytes arr, phaseUpdate w db dn = pwWord gen (phaseOver w db dn) bytes (pwTbytes w) arr (pwTarr w) := by
  by_cases h : PhaseMeets w db dn
  · exact ⟨_, _, _, phaseUpdate_of_meets h⟩
  · exact ⟨_, _, _, phaseUpdate_of_not_meets h⟩

theorem phaseUpdate_lt (w db dn : Nat) : phaseUpdate w db dn < 2 ^ 128 := by
  obtain ⟨gen, bytes, arr, h⟩ := phaseUpdate_word w db dn
  rw [h]
  exact pwWord_lt ..

theorem pwTbytes_phaseUpdate (w db dn : Nat) : pwTbytes (phaseUpdate w db dn) = pwTbytes w := by
  obtain ⟨gen, bytes, arr, h⟩ := phaseUpdate_word w db dn
  rw [h, pwTbytes_pwWord, Nat.mod_eq_of_lt (pwTbytes_lt w)]

theorem pwTarr_phaseUpdate (w db dn : Nat) : pwTarr (phaseUpdate w db dn) = pwTarr w := by
  obtain ⟨gen, bytes, arr, h⟩ := phaseUpdate_word w db dn
  rw [h, pwTarr_pwWord, Nat.mod_eq_of_lt (pwTarr_lt w)]

theorem pwOver_phaseUpdate (w db dn : Nat) : pwOver (phaseUpdate w db dn) = phaseOver w db dn := by
  obtain ⟨gen, bytes, arr, h⟩ := phaseUpdate_word w db dn
  rw [h, pwOver_pwWord]

/-- The update that meets both targets advances the generation and clears the counts. -/
theorem phaseUpdate_advances {w db dn : Nat} (h : PhaseMeets w db dn) :
    pwGen (phaseUpdate w db dn) = (pwGen w + 1) % 2 ^ 31 ∧ pwBytes (phaseUpdate w db dn) = 0 ∧
      pwArr (phaseUpdate w db dn) = 0 := by
  rw [phaseUpdate_of_meets h, pwGen_pwWord, pwBytes_pwWord, pwArr_pwWord]
  exact ⟨Nat.mod_mod .., rfl, rfl⟩

/-- Any other update keeps the generation and stores the saturated counts. -/
theorem phaseUpdate_counts {w db dn : Nat} (h : ¬ PhaseMeets w db dn) :
    pwGen (phaseUpdate w db dn) = pwGen w ∧ pwBytes (phaseUpdate w db dn) = phaseBytes w db ∧
      pwArr (phaseUpdate w db dn) = phaseArr w dn := by
  rw [phaseUpdate_of_not_meets h, pwGen_pwWord, pwBytes_pwWord, pwArr_pwWord]
  exact ⟨Nat.mod_eq_of_lt (pwGen_lt w), Nat.mod_eq_of_lt (phaseBytes_lt w db), Nat.mod_eq_of_lt (phaseArr_lt w dn)⟩

/-! ## What a bank does (R90) -/

@[simp] theorem bankDo_old (m : Memory) (a n : Nat) (op : POp) : (bankDo m a n op).1 = rdLE m a n := by
  cases op <;> rfl

/-- An operation on n bytes leaves every byte outside them alone. -/
theorem rdB_bankDo_out (m : Memory) (a n : Nat) (op : POp) (x : Nat) (h : x < a ∨ a + n ≤ x) :
    rdB (bankDo m a n op).2 x = rdB m x := by
  cases op with
  | rd => rfl
  | wr d mask => exact rdB_wrMasked_out m a d mask n x h
  | amo o v => exact rdB_wrLE_out m a _ n x h
  | cas e v =>
    simp only [bankDo]
    split
    · exact rdB_wrLE_out m a v n x h
    · rfl
  | phase db dn => exact rdB_wrLE_out m a _ n x h

/-- A phase update leaves the updated word at its place. -/
theorem rdLE_bankDo_phase (m : Memory) (a db dn : Nat) :
    rdLE (bankDo m a 16 (.phase db dn)).2 a 16 = phaseUpdate (rdLE m a 16) db dn := by
  simp only [bankDo, rdLE_wrLE]
  exact Nat.mod_eq_of_lt (phaseUpdate_lt ..)

/-- The store of core c after an operation on n bytes of it at a. -/
def State.bankedCore (s : State) (c a n : Nat) (op : POp) : State :=
  s.setCore c { s.core c with mem := (bankDo (s.core c).mem a n op).2 }

/-- The store of cluster k after an operation on n bytes of it at a. -/
def State.bankedClu (s : State) (k a n : Nat) (op : POp) : State :=
  s.setClu k { s.clu k with mem := (bankDo (s.clu k).mem a n op).2 }

theorem State.bank_core (s : State) (tag c a n : Nat) (op : POp) :
    s.bank tag (.core c a) n op = .ok (s.bankedCore c a n op) (rdLE (s.core c).mem a n) := by
  rw [← bankDo_old _ _ _ op]; rfl

theorem State.bank_clu (s : State) (tag k a n : Nat) (op : POp) :
    s.bank tag (.clu k a) n op = .ok (s.bankedClu k a n op) (rdLE (s.clu k).mem a n) := by
  rw [← bankDo_old _ _ _ op]; rfl

theorem State.core_bankedCore (s : State) (c a n : Nat) (op : POp) :
    ((s.bankedCore c a n op).core c).mem = (bankDo (s.core c).mem a n op).2 := by
  simp [State.bankedCore]

theorem State.clu_bankedClu (s : State) (k a n : Nat) (op : POp) :
    ((s.bankedClu k a n op).clu k).mem = (bankDo (s.clu k).mem a n op).2 := by
  simp [State.bankedClu]

theorem State.clu_setClu_ne (s : State) {k k' : Nat} (h : k' ≠ k) (x : Cluster) : (s.setClu k x).clu k' = s.clu k' :=
  mget_mset_ne h ..

theorem State.bankedCore_sameMemoryBut (s : State) (c a n : Nat) (op : POp) :
    SameMemoryBut s (s.bankedCore c a n op) (.core c a) n := by
  refine ⟨fun c' x h => ?_, fun _ _ _ => rfl, fun _ _ => rfl⟩
  by_cases hc : c' = c
  · subst hc
    rw [State.core_bankedCore]
    exact rdB_bankDo_out _ _ _ _ _ (h a rfl)
  · rw [State.bankedCore, State.core_setCore_ne s hc]

theorem State.bankedClu_sameMemoryBut (s : State) (k a n : Nat) (op : POp) :
    SameMemoryBut s (s.bankedClu k a n op) (.clu k a) n := by
  refine ⟨fun _ _ _ => rfl, fun k' x h => ?_, fun _ _ => rfl⟩
  by_cases hk : k' = k
  · subst hk
    rw [State.clu_bankedClu]
    exact rdB_bankDo_out _ _ _ _ _ (h a rfl)
  · rw [State.bankedClu, State.clu_setClu_ne s hk]

/-- A place of a core's or a cluster's store. -/
def Loc.InStore (l : Loc) : Prop := (∃ c a, l = .core c a) ∨ (∃ k a, l = .clu k a)

/-- An operation a bank performs on n bytes of a store leaves every other byte alone. -/
theorem State.bank_sameMemoryBut {s t : State} {l : Loc} {tag n x : Nat} {op : POp} (hl : l.InStore)
    (h : s.bank tag l n op = .ok t x) : SameMemoryBut s t l n := by
  obtain ⟨c, a, rfl⟩ | ⟨k, a, rfl⟩ := hl
  · rw [State.bank_core] at h
    obtain ⟨rfl, -⟩ := Perf.ok.inj h
    exact s.bankedCore_sameMemoryBut c a n op
  · rw [State.bank_clu] at h
    obtain ⟨rfl, -⟩ := Perf.ok.inj h
    exact s.bankedClu_sameMemoryBut k a n op

/-- The bank that holds a phase word applies an update as one operation (R109). -/
theorem State.bank_phase (s : State) {l : Loc} (tag db dn : Nat) (hl : l.InStore) :
    ∃ t, s.bank tag l 16 (.phase db dn) = .ok t (s.bytesAt l 16) ∧
      t.bytesAt l 16 = phaseUpdate (s.bytesAt l 16) db dn ∧ SameMemoryBut s t l 16 := by
  obtain ⟨c, a, rfl⟩ | ⟨k, a, rfl⟩ := hl
  · refine ⟨_, s.bank_core .., ?_, s.bankedCore_sameMemoryBut ..⟩
    simp only [State.bytesAt, State.core_bankedCore, rdLE_bankDo_phase]
  · refine ⟨_, s.bank_clu .., ?_, s.bankedClu_sameMemoryBut ..⟩
    simp only [State.bytesAt, State.clu_bankedClu, rdLE_bankDo_phase]

/-! ## What an ordinary access leaves alone (R93) -/

theorem SameMemory.refl (s : State) : SameMemory s s := ⟨fun _ _ => rfl, fun _ _ => rfl, fun _ => rfl⟩

theorem SameMemory.trans {s t u : State} (h : SameMemory s t) (h' : SameMemory t u) : SameMemory s u := by
  obtain ⟨hc, hk, hm⟩ := h
  obtain ⟨hc', hk', hm'⟩ := h'
  exact ⟨fun c a => (hc' c a).trans (hc c a), fun k a => (hk' k a).trans (hk k a), fun a => (hm' a).trans (hm a)⟩

theorem SameMemory.trans_but {s t u : State} {l : Loc} {n : Nat} (h : SameMemory s t) (h' : SameMemoryBut t u l n) :
    SameMemoryBut s u l n := by
  obtain ⟨hc, hk, hm⟩ := h
  obtain ⟨hc', hk', hm'⟩ := h'
  exact ⟨fun c a ha => (hc' c a ha).trans (hc c a), fun k a ha => (hk' k a ha).trans (hk k a),
    fun a ha => (hm' a ha).trans (hm a)⟩

theorem State.modIo_sameMemory (s : State) (f : Io → Io) : SameMemory s (s.modIo f) :=
  ⟨fun _ _ => rfl, fun _ _ => rfl, fun _ => rfl⟩

theorem State.modCore_sameMemory (s : State) (c : Nat) {f : Core → Core} (hf : ∀ x, (f x).mem = x.mem) :
    SameMemory s (s.modCore c f) := by
  refine ⟨fun c' a => ?_, fun _ _ => rfl, fun _ => rfl⟩
  by_cases hc : c' = c
  · subst hc; rw [State.core_modCore, hf]
  · rw [State.core_modCore_ne s hc]

/-- A fold of steps that leave memory alone leaves it alone. -/
theorem foldl_sameMemory {α : Type} {f : State → α → State} (hf : ∀ s x, SameMemory s (f s x)) (l : List α) (s : State) :
    SameMemory s (l.foldl f s) := by
  induction l generalizing s with
  | nil => exact .refl s
  | cons x l ih => exact (hf s x).trans (ih (f s x))

/-- A record goes to the queue of the I/O die, is held at its source, or is counted as lost (R287): no store changes. -/
theorem State.post_sameMemory (s : State) (r : Dword) : SameMemory s (s.post r) := by
  unfold State.post
  split
  · exact s.modIo_sameMemory _
  · split
    · exact s.modIo_sameMemory _
    · split
      · exact s.modIo_sameMemory _
      · refine foldl_sameMemory (fun u n => ?_) _ s
        exact u.modCore_sameMemory _ (fun _ => rfl)

theorem State.logWatch_sameMemory (s : State) (p w off kind unit : Nat) : SameMemory s (s.logWatch p w off kind unit) :=
  (s.modIo_sameMemory _).trans (State.post_sameMemory _ _)

theorem State.logHit_sameMemory (s : State) (r : Req) (hit : Option (Nat × Nat)) : SameMemory s (s.logHit r hit) := by
  cases hit with
  | none => exact .refl s
  | some e => exact s.logWatch_sameMemory ..

/-- The way to a place that needs no translation ends at that place, nothing changed on it (R355). -/
theorem State.routePlace_to {s t : State} {r : Req} {l l' : Loc} {n : Nat} (h : s.routePlace r l n = .to t l') :
    t = s ∧ l' = l := by
  unfold State.routePlace at h
  split at h
  · cases h
  · split at h
    · cases h
    · split at h
      · cases h
      · cases h; exact ⟨rfl, rfl⟩

/-- The way to a place of a store ends at that place with memory as it was: at most a watchpoint's hit is logged (R335). -/
theorem State.route_to {s t : State} {r : Req} {l l' : Loc} {n : Nat} {op : POp} (hl : l.InStore)
    (h : s.route r l n op = .to t l') : l' = l ∧ SameMemory s t := by
  unfold State.route at h
  split at h
  · simp [Loc.InStore] at hl
  · dsimp only at h
    split at h
    · cases h
    · split at h
      · next u l'' hp =>
        obtain ⟨rfl, rfl⟩ := State.routePlace_to hp
        cases h
        exact ⟨rfl, State.logHit_sameMemory ..⟩
      · next hx => exact absurd h (hx t l')

/-- An ordinary access that goes on was routed to its place and performed there. -/
theorem State.ordinary_ok {s t : State} {l : Loc} {n x : Nat} {op : POp} {o ra : Dword} (hl : l.InStore)
    (h : s.ordinary l n op o ra = .ok (t, x)) : ∃ u, SameMemory s u ∧ u.bank s.req.tag l n op = .ok t x := by
  unfold State.ordinary at h
  cases hm : s.ordinaryMay l n with
  | error e => rw [hm] at h; cases h
  | ok _ =>
    cases hr : s.route s.req l n op
    · next u l' =>
      obtain ⟨rfl, hu⟩ := State.route_to hl hr
      refine ⟨u, hu, ?_⟩
      rw [hm, hr] at h
      obtain ⟨c, a, rfl⟩ | ⟨k, a, rfl⟩ := hl
      · simp only [bind_ok, Route.halt, State.performAt, State.bank_core] at h ⊢
        cases h; rfl
      · simp only [bind_ok, Route.halt, State.performAt, State.bank_clu] at h ⊢
        cases h; rfl
    all_goals
      rw [hm, hr] at h
      cases h

/-- An ordinary access to a store changes no byte but the n it names (R93). -/
theorem State.ordinary_sameMemoryBut {s t : State} {l : Loc} {n x : Nat} {op : POp} {o ra : Dword} (hl : l.InStore)
    (h : s.ordinary l n op o ra = .ok (t, x)) : SameMemoryBut s t l n := by
  obtain ⟨u, hu, hb⟩ := State.ordinary_ok hl h
  exact hu.trans_but (State.bank_sameMemoryBut hl hb)

/-! ## The engines' updates, PHINIT and PHARR (R109, R222) -/

theorem Eng.phase_eq {pw : Dword} (h : pw ≠ 0) (r : Req) (db dn : Nat) (s : State) :
    Eng.phase r pw db dn s = (Eng.acc r pw 16 (.phase db dn) s).map (fun y => ((), y.2)) := by
  simp only [Eng.phase, h, if_false, bind, StateT.bind]
  cases Eng.acc r pw 16 (.phase db dn) s <;> rfl

section Instructions
variable {s t : State} {d r : Fin 24} {l : Loc} {w : Nat}
  (hr : s.gPending s.cth.uid r = false) (hd : s.gPending s.cth.uid d = false)
include hr hd

theorem exec_phinit_next (hl : s.phasePlace s.cth.g[r.val] rightW = .ok l)
    (h : s.phaseAccess s.cth.g[r.val] l (.wr (pwWord 0 false 0 (bits (s.cth.g[d.val]).toNat 31 0) 0
      (bits (s.cth.g[d.val]).toNat 47 32)) (fullMask 16)) = .ok (t, w)) :
    exec (.phinit d r) s = .next (t.advance none) := by
  show execPhinit d r s = _
  simp [execPhinit, readG_ok hr, readG_ok hd, hl, h]

theorem exec_pharr_next (sc : Scope) (hl : s.phasePlace s.cth.g[r.val] rightA = .ok l) (hdrain : s.drained s.cth.uid = true)
    (h : s.phaseAccess s.cth.g[r.val] l (.phase (s.cth.g[d.val]).toNat 1) = .ok (t, w)) :
    exec (.pharr d r sc) s = .next (t.advance none) := by
  show execPharr d r sc s = _
  simp [execPharr, readG_ok hr, readG_ok hd, hl, h, State.release, hdrain]

end Instructions

end Sys2Proof.Machine

namespace Sys2Proof.Settled

open Sys2Proof.Machine

/-- Settles O10: the fields of an updated word are read off `phaseUpdate`'s two cases; a bank operation and the way to it change no byte
outside the n bytes of the access. -/
theorem phaseUpdate : Obligations.PhaseUpdate := by
  refine ⟨?update, ?bank, ?engine, ?instructions, ?plain⟩
  case update =>
    intro w db dn _
    exact ⟨phaseUpdate_lt w db dn, pwTbytes_phaseUpdate w db dn, pwTarr_phaseUpdate w db dn, pwOver_phaseUpdate w db dn,
      phaseUpdate_advances, phaseUpdate_counts⟩
  case bank =>
    intro s l tag db dn hl
    obtain ⟨t, hb, hw, hm⟩ := s.bank_phase tag db dn hl
    obtain ⟨c, a, rfl⟩ | ⟨k, a, rfl⟩ := hl <;> exact ⟨t, hb, hw, hm⟩
  case engine =>
    intro s r pw db dn h
    exact Eng.phase_eq h r db dn s
  case instructions =>
    intro s t d r sc l w hr hd
    refine ⟨fun hl h => exec_phinit_next hr hd hl (w := w) ?_, fun hl hdrain h => exec_pharr_next hr hd sc hl hdrain h⟩
    rw [pwWord_targets]
    exact h
  case plain =>
    rintro s t l n o ra op x _ hl (h | ⟨p, h⟩)
    · exact State.ordinary_sameMemoryBut hl h
    · exact State.bank_sameMemoryBut hl h

end Sys2Proof.Settled
end

section
/-! PROOFS. The saved trap state as GETX and TRAPRET read it, a narrowed segment, and what BRK, TRAPRET, GETX, SETTH, GFAIL and SEGNAR do
(R169 to R171, R173, R174, R176). -/

namespace Sys2Proof.Machine

/-! ## Bits of a word -/

theorem bitAt_toNat {n : Nat} (x : BitVec n) (i : Nat) : bitAt x.toNat i = x.getLsbD i := by
  rw [bitAt, BitVec.getLsbD, Nat.testBit_eq_decide_div_mod_eq]

theorem getLsbD_ofNat_bits (x : Dword) {n hi lo i : Nat} (hn : hi + 1 - lo = n) (h : i < n) :
    (BitVec.ofNat n (bits x.toNat hi lo)).getLsbD i = x.getLsbD (lo + i) := by
  simp [bits, hn, h, BitVec.getLsbD, Nat.testBit_mod_two_pow, Nat.testBit_div_two_pow, Nat.add_comm]

/-! ## The saved trap state (R167, R170) -/

/-- XSTAT as GETX reads it: no field reaches into another (R167). -/
theorem XStat.toNat_word (x : XStat) (pm : Bool) :
    (x.word pm).toNat = x.resume.toNat * 2 ^ 32 + x.glen.toNat * 16 + (if x.df then 8 else 0) + (if x.h then 4 else 0) +
      (if x.tr then 2 else 0) + (if pm then 1 else 0) := by
  have hr := x.resume.isLt
  have hg := x.glen.isLt
  have hdf := b2n_lt_two x.df
  have hh := b2n_lt_two x.h
  have htr := b2n_lt_two x.tr
  have hpm := b2n_lt_two pm
  rw [XStat.word, BitVec.toNat_ofNat, Nat.mod_eq_of_lt (by omega)]
  simp only [b2n, ite_mul, one_mul, zero_mul]

/-- Where TRAPRET goes: the resume address, or past the group that trapped (R170). -/
def XStat.returnTo (x : XStat) (skip : Bool) : Dword :=
  if skip then x.resume.setWidth 64 + BitVec.ofNat 64 (2 * x.glen.toNat) else x.resume.setWidth 64

theorem XStat.toNat_returnTo (x : XStat) (skip : Bool) :
    (x.returnTo skip).toNat = x.resume.toNat + (if skip then 2 * x.glen.toNat else 0) := by
  have hr := x.resume.isLt
  have hg := x.glen.isLt
  have hres : (x.resume.setWidth 64).toNat = x.resume.toNat := by
    rw [BitVec.toNat_setWidth]
    omega
  cases skip
  · simpa [XStat.returnTo] using hres
  · simp only [XStat.returnTo, if_true, BitVec.toNat_add, hres, BitVec.toNat_ofNat]
    omega

/-- TRAPRET in a handler, to an address inside the local segment, leaves the handler and goes there (R170). -/
theorem trapReturn_inside {s : State} {skip : Bool} (h : s.cth.xstat.h = true)
    (hin : s.inLocal s.cur.core s.cth (s.cth.xstat.returnTo skip).toNat 2 = true) :
    s.trapReturn skip = .ok (s.modCth (fun t => { t with xstat := { t.xstat with h := false }, leave := none }),
      some (s.cth.xstat.returnTo skip)) := by
  unfold XStat.returnTo at hin ⊢
  simp [State.trapReturn, h, hin]

/-! ## A narrowed segment (R176) -/

/-- Segment register g narrowed by SEGNAR: off into it, and the limit and rights that x holds. -/
def Seg.narrow (g : Seg) (off x : Dword) : Seg :=
  { space := g.space, rights := g.rights &&& BitVec.ofNat 4 (bits x.toNat 63 60), limit := BitVec.ofNat 40 (bits x.toNat 39 0)
    base := BitVec.ofNat 56 (fieldAdd g.space.toNat g.base.toNat off.toNat) }

section Narrow
variable (g : Seg) (off x : Dword)

@[simp] theorem Seg.space_narrow : (g.narrow off x).space = g.space := rfl

theorem Seg.limit_narrow : (g.narrow off x).limit.toNat = x.toNat % 2 ^ 40 := by simp [Seg.narrow, bits]

theorem Seg.base_narrow : (g.narrow off x).base.toNat = fieldAdd g.space.toNat g.base.toNat off.toNat % 2 ^ 56 := by
  simp [Seg.narrow]

theorem Seg.rights_narrow {i : Nat} (h : i < 4) :
    (g.narrow off x).rights.getLsbD i = (g.rights.getLsbD i && x.getLsbD (60 + i)) := by
  rw [Seg.narrow, BitVec.getLsbD_and, getLsbD_ofNat_bits x (n := 4) rfl h]

end Narrow

/-! ## The instructions -/

theorem exec_brk (s : State) (code : Dword) : exec (.brk code) s = .next (s.trapHere 0x08 code) := rfl

theorem exec_trapret (s : State) (skip : Bool) : exec (.trapret skip) s = finish s (s.trapReturn skip) := rfl

theorem exec_getx (s : State) (d : Fin 24) (sel : Fin 4) :
    exec (.getx d sel) s = .next ((writeG s d (s.trapReg sel)).advance none) := rfl

section Operands
variable {s : State} {r : Fin 24} (hr : s.gPending s.cth.uid r = false)
include hr

/-- SETTH, by its checks in order: an odd address, one past the core store, else the handler is set (R171). -/
theorem exec_setth : exec (.setth r) s =
    if s.cth.g[r.val].getLsbD 0 then .next (s.trapHere 0x05 s.cth.g[r.val])
    else if 0x40000 ≤ s.cth.g[r.val].toNat then .next (s.trapHere 0x03 s.cth.g[r.val])
    else .next ((s.modCth (fun t => { t with handler := s.cth.g[r.val] })).advance none) := by
  show execSetth r s = _
  rw [execSetth, readG_ok hr, bind_ok, bitAt_toNat, apply_ite (finish s), apply_ite (finish s)]
  rfl

/-- GFAIL waits for its release, then stops the thread with the register's value (R174). -/
theorem exec_gfail : exec (.gfail r) s =
    if s.drained s.cth.uid then .next (s.stopThread s.cur.core s.cur.slot 0x11 s.cur.pc s.cth.g[r.val])
    else .next (s.modCth (fun t => { t with wait := .poll .drain })) := by
  show execGfail r s = _
  rw [execGfail, readG_ok hr, bind_ok, State.release]
  split <;> rfl

/-- SEGNAR, by its checks in order: bits of the operand that must be zero, the limit, the offset into sg0; else the segment register is
narrowed (R176). -/
theorem exec_segnar {d : Fin 24} (hd : s.gPending s.cth.uid d = false) (sg : Fin 8) : exec (.segnar sg d r) s =
    if s.cth.g[r.val].toNat / 2 ^ 40 % 2 ^ 20 ≠ 0 then .next (s.trapHere 0x03 s.cth.g[r.val])
    else if s.cth.sg[sg.val].limit.toNat < s.cth.g[d.val].toNat + s.cth.g[r.val].toNat % 2 ^ 40 then
      .next (s.trapHere 0x03 s.cth.g[d.val])
    else if sg = 0 ∧ s.cth.g[d.val] ≠ 0 then .next (s.trapHere 0x03 s.cth.g[d.val])
    else .next ((s.modCth (fun t => { t with sg := vset t.sg sg (s.cth.sg[sg.val].narrow s.cth.g[d.val] s.cth.g[r.val]) })).advance none) := by
  have hnl (x : Nat) : bits x 39 0 = x % 2 ^ 40 := by simp [bits]
  show execSegnar sg d r s = _
  rw [execSegnar, readG_ok hd, bind_ok, readG_ok hr, bind_ok]
  simp only [hnl]
  rw [apply_ite (finish s), apply_ite (finish s), apply_ite (finish s)]
  simp only [Seg.narrow, hnl]
  rfl

end Operands

end Sys2Proof.Machine

namespace Sys2Proof.Settled

open Sys2Proof.Machine

/-- Settles O49: each instruction is read off its equation, the checks in their order; the words it writes and the addresses it goes to are
given by their fields. -/
theorem trapInstructions : Obligations.TrapInstructions := by
  intro s d r sg code hread
  have hd : s.gPending s.cth.uid d = false := hread d (by simp)
  have hr : s.gPending s.cth.uid r = false := hread r (by simp)
  refine ⟨exec_brk s code, ?outside, ?inside, ?getx, ?odd, ?past, ?handler, ?fails, ?waits, ?reserved, ?refused, ?narrowed⟩
  case outside =>
    intro hh k
    rw [exec_trapret, trapReturn_outside hh, finish_trap]
  case inside =>
    intro hh k
    refine ⟨s.cth.xstat.returnTo k, XStat.toNat_returnTo .., fun hin => ?_⟩
    rw [exec_trapret, trapReturn_inside hh hin, finish_ok]
  case getx =>
    exact ⟨s.cth.xstat.word (isService s.cur.core), exec_getx s d 0, exec_getx s d 1, exec_getx s d 2, exec_getx s d 3,
      XStat.toNat_word ..⟩
  case odd =>
    intro h
    rw [exec_setth hr, if_pos h]
  case past =>
    intro h hp
    rw [exec_setth hr, if_neg (ne_true_of_eq_false h), if_pos hp]
  case handler =>
    intro h hp
    rw [exec_setth hr, if_neg (ne_true_of_eq_false h), if_neg (by omega)]
  case fails =>
    intro h
    rw [exec_gfail hd, if_pos h]
  case waits =>
    intro h
    rw [exec_gfail hd, if_neg (ne_true_of_eq_false h)]
  case reserved =>
    intro hz
    rw [exec_segnar hr hd, if_pos hz]
  case refused =>
    intro hz h
    rw [exec_segnar hr hd, if_neg (not_not.mpr hz)]
    by_cases hl : s.cth.sg[sg.val].limit.toNat < s.cth.g[d.val].toNat + s.cth.g[r.val].toNat % 2 ^ 40
    · rw [if_pos hl]
    · rw [if_neg hl, if_pos (h.resolve_left hl)]
  case narrowed =>
    intro hz hl h0
    refine ⟨s.cth.sg[sg.val].narrow s.cth.g[d.val] s.cth.g[r.val], ?_, Seg.space_narrow .., Seg.limit_narrow ..,
      fun i hi => Seg.rights_narrow _ _ _ hi, Seg.base_narrow ..⟩
    rw [exec_segnar hr hd, if_neg (not_not.mpr hz), if_neg (Nat.not_lt.mpr hl), if_neg (fun ⟨hs, hne⟩ => hne (h0 hs))]

end Sys2Proof.Settled
end
